-- ==== Sys2Proof/Word.lean ====
section
/-! DEFINITION. The number types of the block (spec/00_scope.md R8): bytes, 32-bit words, signed bytes. `Time` of R8, a
natural number of microseconds with no width and no wrap (D2), is `Nat`. -/

namespace Sys2Proof

/-- `u8` of R8. -/
abbrev Byte := BitVec 8

/-- `u32` of R8, the 32-bit word of R61 (`WORD_BITS` of R6). -/
abbrev Word := BitVec 32

/-- `i8` of R8: a byte read as two's complement (`BitVec.toInt` gives the value -128 to 127). -/
abbrev SByte := BitVec 8

end Sys2Proof
end

