-- ==== Sys2Proof/Config.lean ====
section
/-! DEFINITION. The implementation parameters of spec/00_scope.md R6 and R7 as plain data with the constraints R7 puts on them,
and the opaque constants that stand for what the spec leaves open. Nothing here says what a parameter's value is. -/

namespace Sys2Proof

/-- The two open-drain lines of a bus; the names A and B are the spec's (R155). -/
inductive Line where
  | a
  | b
deriving DecidableEq, Repr, Inhabited

/-- What the block does to one open-drain line (R30): it releases it or pulls it low, it never drives it high (R156). -/
inductive Drive where
  | release
  | low
deriving DecidableEq, Repr, Inhabited

/-- One piece of a line-level shape: what is done to line A and to line B, for how many nanoseconds (R7 `START_SEQ`). -/
structure Segment where
  lineA : Drive
  lineB : Drive
  ns : Nat
deriving DecidableEq, Repr, Inhabited

/-- An interval of time, both ends included, in which the environment drives one line low (R155). -/
structure LowPulse where
  line : Line
  start : Nat
  stop : Nat
deriving DecidableEq, Repr, Inhabited

/-- `HDR_LAYOUT` (R92, `91_not_in_source.md` N8): `cmdFirst` puts the command in bits 31:24 of the header word,
`lenFirst` puts the length there and reverses the four fields. -/
inductive HdrLayout where
  | cmdFirst
  | lenFirst
deriving DecidableEq, Repr, Inhabited

/-- `COND_LAYOUT` (R97): positions in the 64-bit value `V = W0 ## W1`. The button flags are listed in index order, so
`NUM_DIGITAL` is four more than the length of `buttonBits`; a byte is named by its lowest bit index. -/
structure CondLayout where
  buttonBits : List (Fin 64)
  padUp : Fin 64
  padDown : Fin 64
  padLeft : Fin 64
  padRight : Fin 64
  triggerLeft : Fin 57
  triggerRight : Fin 57
  thumbXLeft : Fin 57
  thumbYLeft : Fin 57
  thumbXRight : Fin 57
  thumbYRight : Fin 57
deriving DecidableEq, Repr, Inhabited

/-- `IS_CONTROLLER` (R7) as plain data: a formula over the length field and the payload words of a device-information
response. Every predicate on such a response can be written so, since a response has finitely many bits. -/
inductive FrameTest where
  | const (value : Bool)
  | lenAtLeast (n : Nat)
  | wordIs (index : Nat) (value : Word)
  | wordBit (index : Nat) (bit : Nat)
  | neg (t : FrameTest)
  | both (t u : FrameTest)
  | either (t u : FrameTest)
deriving DecidableEq, Repr, Inhabited

/-- The parameters of R7. `DISCONNECT_THRESHOLD`, the sizes and the counts of R6 are fixed numbers and stand in the
definitions that use them. -/
structure Params where
  /-- `NUM_BUSES` is `extraBuses + 1`. -/
  extraBuses : Fin 4
  /-- `PLAYER(0)` to `PLAYER(3)`; only the first `NUM_BUSES` are used. -/
  player0 : BitVec 2
  player1 : BitVec 2
  player2 : BitVec 2
  player3 : BitVec 2
  hdrLayout : HdrLayout
  bitPeriodNs : Nat
  startSeq : List Segment
  endSeq : List Segment
  /-- `BIT_WAVE(phase, b)`, one list for each line phase and bit value. -/
  bitWave00 : List Segment
  bitWave01 : List Segment
  bitWave10 : List Segment
  bitWave11 : List Segment
  firstClockLine : Line
  openLineCheckUs : Nat
  /-- `WRITE_TIMEOUT_US` as a table: entry `L` is the value for a frame of `L` payload words, that is for
  `nbits = 32 * (1 + L) + 8` (R99); the function is asked for no other argument. -/
  writeTimeoutUs : List Nat
  pollPeriodUs : Nat
  repollOnMiss : Bool
  probePeriodUs : Nat
  probeReadTimeoutUs : Word
  condReadTimeoutUs : Word
  cmdDeviceInfoRequest : Byte
  cmdDeviceInfoResponse : Byte
  cmdGetCondition : Byte
  cmdDataTransfer : Byte
  /-- `COND_REQ_PAYLOAD`; `COND_REQ_LEN` is the number of its words. -/
  condReqPayload : List Word
  condRespLen : Byte
  condLayout : CondLayout
  isController : FrameTest
deriving DecidableEq, Repr, Inhabited

/-- `PLAYER(b)` is distinct per bus (R7). -/
def Params.playersDistinct (p : Params) : Bool :=
  (([p.player0, p.player1, p.player2, p.player3].take (p.extraBuses.val + 1)).Nodup : Bool)

/-- The bit indices `COND_LAYOUT` names, a byte by its eight bits (R97). -/
def CondLayout.namedBits (l : CondLayout) : List Nat :=
  l.buttonBits.map Fin.val ++ [l.padUp.val, l.padDown.val, l.padLeft.val, l.padRight.val] ++
    ([l.triggerLeft, l.triggerRight, l.thumbXLeft, l.thumbYLeft, l.thumbXRight, l.thumbYRight].flatMap
      (fun low => (List.range 8).map (fun i => low.val + i)))

/-- The total duration of a shape, `START_NS` for `START_SEQ` and `END_NS` for `END_SEQ` (R7). -/
def shapeNs (shape : List Segment) : Nat := (shape.map Segment.ns).sum

/-- `TX_DURATION_NS(nbits)` of R165. -/
def Params.txDurationNs (p : Params) (nbits : Nat) : Nat :=
  shapeNs p.startSeq + nbits * p.bitPeriodNs + shapeNs p.endSeq

/-- The constraints R7, R97 and R165 put on the parameters. -/
def Params.wf (p : Params) : Bool :=
  p.playersDistinct &&
  decide (0 < p.bitPeriodNs) &&
  decide (shapeNs p.bitWave00 = p.bitPeriodNs) && decide (shapeNs p.bitWave01 = p.bitPeriodNs) &&
  decide (shapeNs p.bitWave10 = p.bitPeriodNs) && decide (shapeNs p.bitWave11 = p.bitPeriodNs) &&
  decide (p.writeTimeoutUs.length = 256) &&
  (p.writeTimeoutUs.zipIdx.all (fun x =>
    decide (p.openLineCheckUs * 1000 + p.txDurationNs (32 * (1 + x.2) + 8) < x.1 * 1000))) &&
  decide (0 < p.pollPeriodUs) && decide (0 < p.probePeriodUs) &&
  decide (p.cmdDeviceInfoResponse ≠ p.cmdDataTransfer) &&
  decide (p.condReqPayload.length ≤ 255) &&
  decide (2 ≤ p.condRespLen.toNat) &&
  decide (8 ≤ p.condLayout.buttonBits.length) && decide (p.condLayout.buttonBits.length ≤ 12) &&
  (p.condLayout.namedBits.Nodup : Bool)

/-- Parameters that keep the constraints of R7. The values written here only show that the constraints can be met; no
definition reads them. -/
structure LawfulParams where
  params : Params :=
    { extraBuses := 0, player0 := 0, player1 := 1, player2 := 2, player3 := 3
      hdrLayout := .cmdFirst
      bitPeriodNs := 1, startSeq := [], endSeq := []
      bitWave00 := [⟨.low, .low, 1⟩], bitWave01 := [⟨.low, .low, 1⟩]
      bitWave10 := [⟨.low, .low, 1⟩], bitWave11 := [⟨.low, .low, 1⟩]
      firstClockLine := .a
      openLineCheckUs := 0, writeTimeoutUs := List.replicate 256 9
      pollPeriodUs := 1, repollOnMiss := false, probePeriodUs := 1
      probeReadTimeoutUs := 0, condReadTimeoutUs := 0
      cmdDeviceInfoRequest := 0, cmdDeviceInfoResponse := 1, cmdGetCondition := 2, cmdDataTransfer := 3
      condReqPayload := [], condRespLen := 2
      condLayout :=
        { buttonBits := [0, 1, 2, 3, 4, 5, 6, 7], padUp := 8, padDown := 9, padLeft := 10, padRight := 11
          triggerLeft := 12, triggerRight := 20, thumbXLeft := 28, thumbYLeft := 36, thumbXRight := 44, thumbYRight := 52 }
      isController := .const true }
  lawful : params.wf = true := by decide +kernel
deriving Inhabited

/-- The OPEN parameters of R7, under its constraints: nothing else is known of a value or provable of it (DESIGN CHOICE,
log entry 1). -/
opaque Config.openParams : LawfulParams

/-- What the environment does to the lines of bus `b` (R155: an oracle, never constrained; log entry 11). -/
opaque Config.environment : Nat → List LowPulse

/-- The clock at reset, "an arbitrary natural number" (R322; log entry 12). -/
opaque Config.clockAtReset : Nat

/-- `T.deadline` of bus `b` at reset, unspecified in R44 (log entry 12). -/
opaque Config.deadlineAtReset : Nat → Nat

/-- `P.rxCmd` of node `n` of bus `b` at reset, unspecified in R44 (log entry 12). -/
opaque Config.rxCmdAtReset : Nat → Nat → Byte

/-- `P.rxLen` of node `n` of bus `b` at reset, unspecified in R44 (log entry 12). -/
opaque Config.rxLenAtReset : Nat → Nat → Byte

/-- `P.rxW0` of node `n` of bus `b` at reset, unspecified in R44 (log entry 12). -/
opaque Config.rxW0AtReset : Nat → Nat → Word

/-- `P.rxW1` of node `n` of bus `b` at reset, unspecified in R44 (log entry 12). -/
opaque Config.rxW1AtReset : Nat → Nat → Word

/-- The parameters of the machine the spec describes: the OPEN ones opaque, `HDR_LAYOUT` and `REPOLL_ON_MISS` at the
values the spec decides (D3, D16; log entry 2). -/
def Config.platform : Params :=
  { Config.openParams.params with hdrLayout := .cmdFirst, repollOnMiss := false }

end Sys2Proof
end

