-- ==== Sys2Proof/Syntax.lean ====
section
/-! DEFINITION. The steps of the block: one constructor of `Instr` for each row of spec/opcode_table.json, with the operands
the table gives it, and the data types its operands and results are made of. -/

namespace Sys2Proof

/-- A bus `b`; `NUM_BUSES` is at most 4 (R7). -/
abbrev BusId := Fin 4

/-- `N.kind` (R32), used to name a node of a bus: its main node or its sub-node `i`. -/
inductive NodeId where
  | main
  | sub (i : Fin 5)
deriving DecidableEq, Repr, Inhabited

/-- The operand `target` of GETRECIPIENTADDRESS (R140). The index is a byte so that the indices R140 refuses can be
written. -/
inductive Target where
  | main
  | sub (i : Byte)
deriving DecidableEq, Repr, Inhabited

/-- A bit on the wire with the line that clocks it, which tells its line phase (R98, R162, R176). -/
structure ClockedBit where
  value : Bool
  clock : Line
deriving DecidableEq, Repr, Inhabited

/-- A symbol as a receiver sees it (R158): START, BIT(b), END, BAD. -/
inductive Symbol where
  | start
  | bit (b : ClockedBit)
  | stop
  | bad
deriving DecidableEq, Repr, Inhabited

/-- A symbol as the transmitter emits it (R158). -/
inductive TxSymbol where
  | start
  | bit (b : ClockedBit)
  | stop
deriving DecidableEq, Repr, Inhabited

/-- The steps of R101 (class OP), R102 (class EVENT) and R103 (class SEQ). NODE and POLLER operations also take the
instance they act on (R101). -/
inductive Instr where
  | computeCrc (bytes : List Byte) (n : Nat)
  | encode (command senderAddr recipientAddr : Byte) (payload : List Word) (len : Byte)
  | validate (bytes : List Byte) (n : Nat)
  | parse (bytes : List Byte) (n : Nat)
  | getRecipientAddress (player : Byte) (target : Target)
  | subPeripheralMask (addr : Byte)
  | subPeripheralIndex (addr : Byte)
  | write (bus : BusId) (command recipientAddr : Byte) (payload : List Word) (len : Byte) (expectResponse : Bool)
      (readTimeout : Word)
  | getReadData (bus : BusId)
  | processEvents (bus : BusId) (currentTime : Nat)
  | nodeHandleData (bus : BusId) (node : NodeId) (len cmd : Byte) (payload : List Word)
  | nodeTask (bus : BusId) (node : NodeId) (currentTime : Nat)
  | nodeSetConnected (bus : BusId) (node : NodeId) (state : Bool)
  | nodeMainPeripheralDisconnected (bus : BusId) (node : NodeId)
  | nodeIsPresent (bus : BusId) (node : NodeId)
  | mainDispatch (bus : BusId) (words : List Word) (length : Nat)
  | pollerTick (bus : BusId) (node : NodeId) (currentTime : Nat)
  | pollerAttach (bus : BusId) (node : NodeId)
  | pollerDetach (bus : BusId) (node : NodeId)
  | condDecode (w0 w1 : Word)
  | txComplete (bus : BusId)
  | rxComplete (bus : BusId) (count : Nat)
  | crcClear
  | crcUpdate (byte : Byte)
  | txStart (bus : BusId)
  | txBit (bus : BusId)
  | txEnd (bus : BusId)
  | rxWaitStart (bus : BusId) (symbol : Symbol)
  | rxBit (bus : BusId) (b : ClockedBit)
  | rxEnd (bus : BusId)
  | rxBad (bus : BusId)
deriving DecidableEq, Repr

/-- The Condition record of R41, stored decoded: a flag is `true` when pressed, an analog field is the wire byte minus
128. -/
structure Condition where
  buttons : List Bool
  padUp : Bool
  padDown : Bool
  padLeft : Bool
  padRight : Bool
  triggerLeft : SByte
  triggerRight : SByte
  thumbXLeft : SByte
  thumbYLeft : SByte
  thumbXRight : SByte
  thumbYRight : SByte
deriving DecidableEq, Repr, Inhabited

/-- `direction` of R272. -/
inductive Direction where
  | up
  | down
  | left
  | right
deriving DecidableEq, Repr

/-- `axis` of R272. -/
inductive Axis where
  | x
  | y
deriving DecidableEq, Repr

/-- The six calls into the input-device collaborator (R272). -/
inductive CollabCall where
  | updateControllerConnected (connected : Bool)
  | setButton (index : Nat) (pressed : Bool)
  | setDigitalPad (direction : Direction) (pressed : Bool)
  | setAnalogTrigger (isLeft : Bool) (value : SByte)
  | setAnalogThumb (axis : Axis) (isLeft : Bool) (value : SByte)
  | send
deriving DecidableEq, Repr

/-- The nine conditions of R285, labels of the path a step takes. -/
inductive Cond where
  | busBusy
  | lineNotIdle
  | writeTimeout
  | readTimeout
  | crcMismatch
  | malformed
  | unexpectedFrame
  | missedPoll
  | disconnect
deriving DecidableEq, Repr

/-- What PARSE gives when it is `ok` (R128). -/
structure ParsedFrame where
  command : Byte
  recipient : Byte
  sender : Byte
  length : Byte
  words : List Word
  crcByte : Byte
deriving DecidableEq, Repr, Inhabited

/-- The values the operations of R101 hand back to their caller. -/
inductive Ret where
  | none
  | crc (c : Byte)
  | wire (bytes : List Byte) (n : Nat)
  | bool (b : Bool)
  | parsed (p : Option ParsedFrame)
  | addr (a : Byte)
  | mask (m : Byte)
  | index (i : Nat)
  | readData (words : List Word) (length : Nat) (isNew : Bool)
  | condition (c : Condition)
deriving DecidableEq, Repr, Inhabited

end Sys2Proof
end

