-- ==== Sys2Proof/Machine/Flags.lean ====
section
/-! DEFINITION. The checks and flag computations of the spec: the CRC (R120 to R126), the size test of a reception (R65), the expiry of a
timer (R206, R303), the classes of an address byte (R96, R141), the codes of the conditions (R285). -/

namespace Sys2Proof.Machine

/-- CRC.CLEAR (R120): the CRC of no bytes. -/
def crcInit : Byte := 0x00

/-- CRC.UPDATE (R121): `crc <- crc ^ byte`. -/
def crcStep (crc byte : Byte) : Byte := crc ^^^ byte

/-- `XOR(A[0..n-1])` (R9): the fold of CRC.UPDATE from CRC.CLEAR, which is COMPUTECRC (R123). -/
def crcOf (bytes : List Byte) : Byte := bytes.foldl crcStep crcInit

/-- VALIDATE (R126) on the first `n` bytes: false without a trailing byte, else the CRC of the others against it. -/
def crcValid (bytes : List Byte) (n : Nat) : Bool :=
  match n with
  | 0 => false
  | m + 1 => crcOf (bytes.take m) == bytes.getD m 0

/-- The size test of R65: `n >= 5` and `(n - 1) mod 4 == 0`. -/
def frameSizeOk (n : Nat) : Bool := decide (5 ≤ n) && decide ((n - 1) % 4 = 0)

/-- Every timer is expired when `currentTime >= deadline` (R206, R303; D10). -/
def expired (currentTime deadline : Nat) : Bool := decide (deadline ≤ currentTime)

/-- `playerOf(a) = a[7:6]` (R141). -/
def playerOf (a : Byte) : BitVec 2 := a.extractLsb' 6 2

/-- `a[4:0]`, the field `submask` (R95). -/
def submask (a : Byte) : BitVec 5 := a.extractLsb' 0 5

/-- The `i` in `0..4` with `m == 1 << i`, when `m` is one-hot (R144). -/
def oneHotIndex (m : BitVec 5) : Option (Fin 5) :=
  if m = 0b00001 then some 0
  else if m = 0b00010 then some 1
  else if m = 0b00100 then some 2
  else if m = 0b01000 then some 3
  else if m = 0b10000 then some 4
  else none

/-- `isMain(a)` (R141): bit 5. -/
def isMain (a : Byte) : Bool := a.getLsbD 5

/-- `isSub(a)` (R141): bit 5 clear and the low five bits one-hot. -/
def isSub (a : Byte) : Bool := !a.getLsbD 5 && (oneHotIndex (submask a)).isSome

/-- `isHost(a)` (R141): the low six bits are zero. -/
def isHost (a : Byte) : Bool := a.extractLsb' 0 6 == 0

/-- The code of a condition (R285). -/
def condCode : Cond → Nat
  | .busBusy => 1
  | .lineNotIdle => 2
  | .writeTimeout => 3
  | .readTimeout => 4
  | .crcMismatch => 5
  | .malformed => 6
  | .unexpectedFrame => 7
  | .missedPoll => 8
  | .disconnect => 9

end Sys2Proof.Machine
end

