-- ==== Sys2Proof/Machine/Operands.lean ====
section
/-! DEFINITION. How composite values are assembled and taken apart (spec/30_encoding.md R91 to R99): words and bytes, the header word,
the frame, the address byte, the symbol stream, the condition payload, and the parameters looked up by argument. -/

namespace Sys2Proof.Machine

/-! ## Words and bytes -/

/-- The bytes of a word in wire order, most significant first (R61). -/
def wireBytes (w : Word) : List Byte :=
  [w.extractLsb' 24 8, w.extractLsb' 16 8, w.extractLsb' 8 8, w.extractLsb' 0 8]

/-- The bytes of a word in memory order, least significant first (R62). -/
def memoryBytes (w : Word) : List Byte :=
  [w.extractLsb' 0 8, w.extractLsb' 8 8, w.extractLsb' 16 8, w.extractLsb' 24 8]

/-- The words of a byte string in wire order (R63): word `k` is `B[4k] ## B[4k+1] ## B[4k+2] ## B[4k+3]`. -/
def wordsOfWire : List Byte → List Word
  | b0 :: b1 :: b2 :: b3 :: rest => (b0 ++ b1 ++ b2 ++ b3) :: wordsOfWire rest
  | _ => []

/-! ## The header word and the frame -/

/-- The header word (R92): under `CMD_FIRST` `command ## recipient ## sender ## length`, under `LEN_FIRST` the reverse
(N8). -/
def headerWord (layout : HdrLayout) (command recipient sender length : Byte) : Word :=
  match layout with
  | .cmdFirst => command ++ recipient ++ sender ++ length
  | .lenFirst => length ++ sender ++ recipient ++ command

/-- The `command` byte of a header word (R92). -/
def headerCommand (layout : HdrLayout) (hdr : Word) : Byte :=
  match layout with
  | .cmdFirst => hdr.extractLsb' 24 8
  | .lenFirst => hdr.extractLsb' 0 8

/-- The `recipient` byte of a header word (R92). -/
def headerRecipient (layout : HdrLayout) (hdr : Word) : Byte :=
  match layout with
  | .cmdFirst => hdr.extractLsb' 16 8
  | .lenFirst => hdr.extractLsb' 8 8

/-- The `sender` byte of a header word (R92). -/
def headerSender (layout : HdrLayout) (hdr : Word) : Byte :=
  match layout with
  | .cmdFirst => hdr.extractLsb' 8 8
  | .lenFirst => hdr.extractLsb' 16 8

/-- The `length` byte of a header word (R92): payload words, not bytes (R93). -/
def headerLength (layout : HdrLayout) (hdr : Word) : Byte :=
  match layout with
  | .cmdFirst => hdr.extractLsb' 0 8
  | .lenFirst => hdr.extractLsb' 24 8

/-- The byte count of a frame of `len` payload words, `4 x (1 + len) + 1` (R91). -/
def frameSize (len : Nat) : Nat := 4 * (1 + len) + 1

/-- The header and payload bytes of a frame in wire order (R124). -/
def frameBody (layout : HdrLayout) (command sender recipient : Byte) (payload : List Word) (len : Byte) : List Byte :=
  (headerWord layout command recipient sender len :: payload.take len.toNat).flatMap wireBytes

/-- The wire bytes ENCODE produces (R124): header, payload, then the CRC of all of them (R94). -/
def frameBytes (layout : HdrLayout) (command sender recipient : Byte) (payload : List Word) (len : Byte) : List Byte :=
  let body := frameBody layout command sender recipient payload len
  body ++ [crcOf body]

/-- PARSE (R128) on the first `n` of at least `n` bytes; `none` is `ok = false`. -/
def parseFrame (layout : HdrLayout) (bytes : List Byte) (n : Nat) : Option ParsedFrame :=
  if frameSizeOk n then
    let words := wordsOfWire (bytes.take (n - 1))
    let hdr := words.headD 0
    if (headerLength layout hdr).toNat = (n - 5) / 4 then
      some
        { command := headerCommand layout hdr
          recipient := headerRecipient layout hdr
          sender := headerSender layout hdr
          length := headerLength layout hdr
          words := words
          crcByte := bytes.getD (n - 1) 0 }
    else none
  else none

/-! ## The address byte -/

/-- The host's address of a player, `player << 6` (R96, D5). -/
def hostAddress (player : BitVec 2) : Byte := player ++ 0b000000#6

/-- The main peripheral's address, `(player << 6) | 0x20` (R140). -/
def mainAddress (player : BitVec 2) : Byte := player ++ 0b100000#6

/-- The address of sub-peripheral `i`, `(player << 6) | (1 << i)` (R140). -/
def subAddress (player : BitVec 2) (i : Fin 5) : Byte := player ++ (1#6 <<< i.val)

/-- `N.addr` of a node (R32). -/
def nodeAddress (player : BitVec 2) : NodeId → Byte
  | .main => mainAddress player
  | .sub i => subAddress player i

/-! ## The symbol stream -/

/-- Frame bit `k`, `bit(B[k div 8], 7 - (k mod 8))`, of the byte that holds it (R98). -/
def frameBit (byte : Byte) (k : Nat) : Bool := byte.getLsbD (7 - k % 8)

/-- The other line of the bus. -/
def otherLine : Line → Line
  | .a => .b
  | .b => .a

/-- The line that clocks frame bit `k`: `FIRST_CLOCK_LINE` in line phase 0, the other in phase 1 (R98, R162). -/
def clockLine (p : Params) (k : Nat) : Line :=
  if k % 2 = 0 then p.firstClockLine else otherLine p.firstClockLine

/-- `BIT_WAVE(phase, b)` (R158, R162), the phase being `k mod 2`. -/
def bitWave (p : Params) (k : Nat) (b : Bool) : List Segment :=
  match k % 2, b with
  | 0, false => p.bitWave00
  | 0, true => p.bitWave01
  | _, false => p.bitWave10
  | _, true => p.bitWave11

/-! ## Parameters looked up by argument -/

/-- `PLAYER(b)` (R7). -/
def playerOfBus (p : Params) (bus : Nat) : BitVec 2 :=
  match bus with
  | 0 => p.player0
  | 1 => p.player1
  | 2 => p.player2
  | _ => p.player3

/-- `WRITE_TIMEOUT_US(nbits)` for the frame of `len` payload words (R7, R99). -/
def writeTimeout (p : Params) (len : Byte) : Nat := p.writeTimeoutUs.getD len.toNat 0

/-- `COND_REQ_LEN` (R7): the number of words of `COND_REQ_PAYLOAD`. -/
def condReqLen (p : Params) : Byte := BitVec.ofNat 8 p.condReqPayload.length

/-- The value of an `IS_CONTROLLER` formula on a device-information response (R7, R232). -/
def evalFrameTest (len : Byte) (payload : List Word) : FrameTest → Bool
  | .const value => value
  | .lenAtLeast n => decide (n ≤ len.toNat)
  | .wordIs index value => decide ((payload.take len.toNat)[index]? = some value)
  | .wordBit index bit =>
    match (payload.take len.toNat)[index]? with
    | some w => w.getLsbD bit
    | none => false
  | .neg t => !evalFrameTest len payload t
  | .both t u => evalFrameTest len payload t && evalFrameTest len payload u
  | .either t u => evalFrameTest len payload t || evalFrameTest len payload u

/-! ## The condition payload -/

/-- `center(x) = s8((x - 128) mod 256)` (R268): exact, not clamped. -/
def center (x : Byte) : SByte := x - 128#8

/-- The number of button flags, `NUM_DIGITAL - 4` (R41). -/
def numButtons (l : CondLayout) : Nat := l.buttonBits.length

/-- `COND_NEUTRAL` (R41): nothing pressed, every analog field 0. -/
def neutralCondition (l : CondLayout) : Condition :=
  { buttons := List.replicate (numButtons l) false
    padUp := false, padDown := false, padLeft := false, padRight := false
    triggerLeft := 0, triggerRight := 0
    thumbXLeft := 0, thumbYLeft := 0, thumbXRight := 0, thumbYRight := 0 }

/-- COND.DECODE (R268): flags are active-low, analog bytes are centered. -/
def decodeCondition (l : CondLayout) (w0 w1 : Word) : Condition :=
  let v : BitVec 64 := w0 ++ w1
  let flag : Fin 64 → Bool := fun i => !v.getLsbD i.val
  let analog : Fin 57 → SByte := fun low => center (v.extractLsb' low.val 8)
  { buttons := l.buttonBits.map flag
    padUp := flag l.padUp, padDown := flag l.padDown, padLeft := flag l.padLeft, padRight := flag l.padRight
    triggerLeft := analog l.triggerLeft, triggerRight := analog l.triggerRight
    thumbXLeft := analog l.thumbXLeft, thumbYLeft := analog l.thumbYLeft
    thumbXRight := analog l.thumbXRight, thumbYRight := analog l.thumbYRight }

/-- One setter call, made only when the field changed (R270). -/
def callIfChanged {α : Type} [DecidableEq α] (old new : α) (call : α → CollabCall) : List CollabCall :=
  if new = old then [] else [call new]

/-- The setter calls for the buttons, in ascending index order (R270). -/
def buttonCalls (n : Nat) (old new : Condition) : List CollabCall :=
  (List.range n).flatMap fun k =>
    callIfChanged (old.buttons.getD k false) (new.buttons.getD k false) (CollabCall.setButton k)

/-- The setter calls of FORWARD_CHANGES in the order of R270. -/
def setterCalls (n : Nat) (old new : Condition) : List CollabCall :=
  buttonCalls n old new ++
    callIfChanged old.padUp new.padUp (CollabCall.setDigitalPad .up) ++
    callIfChanged old.padDown new.padDown (CollabCall.setDigitalPad .down) ++
    callIfChanged old.padLeft new.padLeft (CollabCall.setDigitalPad .left) ++
    callIfChanged old.padRight new.padRight (CollabCall.setDigitalPad .right) ++
    callIfChanged old.triggerLeft new.triggerLeft (CollabCall.setAnalogTrigger true) ++
    callIfChanged old.triggerRight new.triggerRight (CollabCall.setAnalogTrigger false) ++
    callIfChanged old.thumbXLeft new.thumbXLeft (CollabCall.setAnalogThumb .x true) ++
    callIfChanged old.thumbYLeft new.thumbYLeft (CollabCall.setAnalogThumb .y true) ++
    callIfChanged old.thumbXRight new.thumbXRight (CollabCall.setAnalogThumb .x false) ++
    callIfChanged old.thumbYRight new.thumbYRight (CollabCall.setAnalogThumb .y false)

/-- FORWARD_CHANGES(`old`, `new`) (R270): the setter calls, then one `send()` if there was any. -/
def forwardChanges (n : Nat) (old new : Condition) : List CollabCall :=
  match setterCalls n old new with
  | [] => []
  | c :: cs => c :: cs ++ [.send]

end Sys2Proof.Machine
end

