-- ==== Sys2Proof/Machine/State.lean ====
section
/-! DEFINITION. The state of the block (spec/10_state.md) as plain data, the reasons a step can stop, and the state after reset (R44). -/

namespace Sys2Proof.Machine

/-- The three buffer memories of R60. -/
inductive Space where
  | wb
  | rb
  | lv
deriving DecidableEq, Repr

/-- Why the machine stops with a fault. There is no reason: a step completes or is refused, "there is no third fault
outcome raised by the hardware" (R12). -/
inductive Fault : Type
deriving DecidableEq, Repr

/-- Why a step has no meaning (R12, R287). -/
inductive Refusal where
  /-- Raised by `exec` for an instruction the model has no meaning for. Safe. -/
  | notModelled (mnemonic : String)
  /-- Raised by `step` for a selector that R101 to R103 do not list (R107). Safe. -/
  | reservedSelector (sel : Byte)
  /-- Raised by `step` for a schedule entry that holds no byte (log entry 7). Safe. -/
  | noBytes
  /-- Raised by `step` when the bytes stop inside an operand (log entry 7). Safe. -/
  | truncatedOperands
  /-- Raised by `step` for an operand byte that stands for no value (log entry 7). Safe. -/
  | badOperand
  /-- Raised by every step on a bus `b >= NUM_BUSES`: no such instance exists (R20). Safe. -/
  | noSuchBus
  /-- Raised by GETRECIPIENTADDRESS for a player above 3 (R140, U6). Safe. -/
  | badPlayer
  /-- Raised by GETRECIPIENTADDRESS for a sub-peripheral index above 4 (R140, U6). Safe. -/
  | badSubIndex
  /-- Raised by SUBPERIPHERALINDEX for a mask that is not one-hot (R144, U6). Safe. -/
  | notOneHot
  /-- Raised when an array operand has fewer elements than the operation reads (R336, U7). Safe. -/
  | arrayTooShort
  /-- Raised when a byte count operand exceeds `BUF_BYTES` (R336, U7). Safe. -/
  | countTooLarge
  /-- Raised by MAIN.DISPATCH for `length == 0` (R246). Safe. -/
  | emptyFrame
  /-- Raised by NODE.MAINPERIPHERALDISCONNECTED on a sub-node (R242). Safe. -/
  | notMainNode
  /-- Raised by POLLER.TICK when `P.attached` is false (R260). Safe. -/
  | notAttached
  /-- Raised by TXCOMPLETE when `T.writeBusy` is false (R210). Safe. -/
  | notWriteBusy
  /-- Raised by RXCOMPLETE when `T.readBusy` is false (R212). Safe. -/
  | notReadBusy
  /-- Raised by a micro-step whose enabling condition does not hold (R103). Safe. -/
  | notEnabled
  /-- Raised by TXCOMPLETE and RXCOMPLETE as steps by themselves when no engine raises them there: the engine still runs, or
  the operand is not `T.rbCount` (R290, U3; log entry 20). Safe. -/
  | notRaised
  /-- Raised by TX.BIT, RX.END, RXCOMPLETE, GETREADDATA and NODE.TASK when they need an element of a buffer that nothing
  has written. Safe: the spec says no rule reads such an element (R44, U11), and the model stops instead of giving it a
  value (log entry 13). -/
  | unwritten (space : Space) (index : Nat)
deriving DecidableEq, Repr

/-- A byte memory: the elements written so far, addresses rising (R60). -/
abbrev ByteMemory := List Host.Cell

/-- A word memory, for the snapshot `LV` (R60). -/
abbrev WordMemory := List (Nat × Word)

/-- `BUF_BYTES` of R6. -/
def bufBytes : Nat := 1029

/-- The number of word elements of `LV` (R60). -/
def lvWords : Nat := 256

/-- `T.txPhase` (R30). -/
inductive TxPhase where
  | idle
  | start
  | data
  | stop
deriving DecidableEq, Repr

/-- `T.rxPhase` (R31). -/
inductive RxPhase where
  | off
  | waitStart
  | data
  | dead
deriving DecidableEq, Repr

/-- The Bus Transport of one bus, `T` (R24 to R31). -/
structure Transport where
  hostAddr : Byte
  wb : ByteMemory
  wbLen : Nat
  rb : ByteMemory
  rbCount : Nat
  lv : WordMemory
  lvLen : Nat
  lvNew : Bool
  writeBusy : Bool
  readBusy : Bool
  deadline : Nat
  expectResponse : Bool
  readTimeout : Word
  txPhase : TxPhase
  txBit : Nat
  driveA : Drive
  driveB : Drive
  rxPhase : RxPhase
  rxShift : Byte
  rxBitCnt : Fin 8
  rxCrc : Byte
  rxOverflow : Bool
  rxBad : Bool
deriving DecidableEq, Repr

/-- A Controller Poller slot, `P` (R36 to R40). -/
structure Poller where
  attached : Bool
  cond : Condition
  waiting : Bool
  noData : Nat
  nextCheck : Nat
  newData : Bool
  rxCmd : Byte
  rxLen : Byte
  rxW0 : Word
  rxW1 : Word
deriving DecidableEq, Repr

/-- A Peripheral Node, `N` (R32 to R36), with the trace of its collaborator calls (R272, R305). -/
structure Node where
  addr : Byte
  present : Bool
  nextProbe : Nat
  poller : Poller
  calls : List CollabCall
deriving DecidableEq, Repr

/-- `M.sub[0..4]` (R35). -/
structure SubNodes where
  s0 : Node
  s1 : Node
  s2 : Node
  s3 : Node
  s4 : Node
deriving DecidableEq, Repr

/-- The instances of one bus (R20), with its wire: `wireTx` and `raised` are records (R158, R286), `env` is the
environment's line activity (log entry 11), `windowEnd` the instant the last open-line window ended (log entry 9). -/
structure Bus where
  t : Transport
  main : Node
  subs : SubNodes
  wireTx : List TxSymbol
  raised : List Cond
  env : List LowPulse
  windowEnd : Nat
deriving DecidableEq, Repr

/-- A schedule entry: the step whose bytes are `code` is taken at `time` (log entry 6). -/
structure Pending where
  time : Nat
  code : List Byte
deriving DecidableEq, Repr

/-- The whole state. `cfg` never changes; `input` is the rest of the schedule, in the total order of R70. -/
structure State where
  cfg : Params
  now : Nat
  crc : Byte
  buses : List Bus
  ret : Ret
  input : List Pending
deriving DecidableEq, Repr

/-- The transport of bus `b` after reset (R44). -/
def resetTransport (p : Params) (b : Nat) : Transport :=
  { hostAddr := hostAddress (playerOfBus p b)
    wb := [], wbLen := 0, rb := [], rbCount := 0, lv := [], lvLen := 0, lvNew := false
    writeBusy := false, readBusy := false
    deadline := Config.deadlineAtReset b
    expectResponse := false, readTimeout := 0
    txPhase := .idle, txBit := 0, driveA := .release, driveB := .release
    rxPhase := .off, rxShift := 0, rxBitCnt := 0, rxCrc := 0, rxOverflow := false, rxBad := false }

/-- The poller slot of node number `n` of bus `b` after reset (R44). -/
def resetPoller (p : Params) (b n : Nat) : Poller :=
  { attached := false
    cond := neutralCondition p.condLayout
    waiting := false, noData := 0, nextCheck := 0, newData := false
    rxCmd := Config.rxCmdAtReset b n, rxLen := Config.rxLenAtReset b n
    rxW0 := Config.rxW0AtReset b n, rxW1 := Config.rxW1AtReset b n }

/-- A node of bus `b` after reset (R44); its number in the bus is 0 for the main node, `i + 1` for sub-node `i`. -/
def resetNode (p : Params) (b : Nat) (id : NodeId) : Node :=
  { addr := nodeAddress (playerOfBus p b) id
    present := false
    nextProbe := 0
    poller := resetPoller p b (match id with | .main => 0 | .sub i => i.val + 1)
    calls := [] }

/-- Bus `b` after reset (R44, R320). -/
def resetBus (p : Params) (b : Nat) : Bus :=
  { t := resetTransport p b
    main := resetNode p b .main
    subs :=
      { s0 := resetNode p b (.sub 0), s1 := resetNode p b (.sub 1), s2 := resetNode p b (.sub 2)
        s3 := resetNode p b (.sub 3), s4 := resetNode p b (.sub 4) }
    wireTx := []
    raised := []
    env := Config.environment b
    windowEnd := 0 }

/-- The machine with parameters `p` after reset: `NUM_BUSES` instances (R20, R306), nothing in flight, nothing present,
and no operation invoked yet (R320, R322). -/
def State.resetWith (p : Params) : State :=
  { cfg := p
    now := Config.clockAtReset
    crc := crcInit
    buses := resetBus p 0 :: ([1, 2, 3].take p.extraBuses.val).map (resetBus p)
    ret := .none
    input := [] }

/-- The machine right after reset (R44), for the parameters the spec leaves open. -/
def State.reset : State := State.resetWith Config.platform

end Sys2Proof.Machine
end

