-- ==== Sys2Proof/Machine/Ops.lean ====
section
/-! DEFINITION. The shared operations over buffers, buses and nodes, WRITE's test-and-set, and the taking of a completion event (the
block's only asynchronous entry: spec/60_exceptions.md R290 to R297), from which the families' meanings are made. -/

namespace Sys2Proof.Machine

/-! ## Buffer memories (R60, R66) -/

/-- One element of a buffer; `none` where nothing has been written (log entry 13). -/
def readCell {α : Type} : List (Nat × α) → Nat → Option α
  | [], _ => none
  | (k, v) :: rest, a => if k = a then some v else readCell rest a

/-- Write one element, keeping the addresses rising. -/
def writeCell {α : Type} : List (Nat × α) → Nat → α → List (Nat × α)
  | [], a, v => [(a, v)]
  | (k, x) :: rest, a, v =>
    if a < k then (a, v) :: (k, x) :: rest
    else if a = k then (a, v) :: rest
    else (k, x) :: writeCell rest a v

/-- Write a list of elements at consecutive indices from `a`. -/
def writeCells {α : Type} : List (Nat × α) → Nat → List α → List (Nat × α)
  | m, _, [] => m
  | m, a, v :: vs => writeCells (writeCell m a v) (a + 1) vs

/-- `n` consecutive elements from index `a`, or the index of the first one that nothing has written. -/
def readCells {α : Type} (m : List (Nat × α)) : Nat → Nat → Except Nat (List α)
  | _, 0 => .ok []
  | a, n + 1 =>
    match readCell m a with
    | none => .error a
    | some v =>
      match readCells m (a + 1) n with
      | .ok vs => .ok (v :: vs)
      | .error i => .error i

/-- The canonical form of a buffer of `size` elements: addresses strictly rising and below `size`. An element nothing
has written has no entry. -/
def cellsWf {α : Type} (size : Nat) : List (Nat × α) → Bool
  | [] => true
  | [(k, _)] => decide (k < size)
  | (k, _) :: (k', v) :: rest => decide (k < k') && cellsWf size ((k', v) :: rest)

/-- The memory of a bus, its three buffers, is in canonical form (R60): equal contents are equal data. -/
def Memory.wf (t : Transport) : Bool := cellsWf bufBytes t.wb && cellsWf bufBytes t.rb && cellsWf lvWords t.lv

/-! ## How a step ends (R12): it completes or it is refused -/

/-- What a step on one bus reads besides the bus: the parameters, the clock and the bus's player index. -/
structure Ctx where
  cfg : Params
  now : Nat
  player : BitVec 2
deriving DecidableEq, Repr

/-- The context of bus `b`. -/
def ctxOf (s : State) (b : BusId) : Ctx :=
  { cfg := s.cfg, now := s.now, player := playerOfBus s.cfg b.val }

/-- An operation that touches no bus (R140, "pure: no state read, no state written"): only its result is handed back. -/
def handBack (s : State) (r : Ret) : Host.Outcome State Fault Refusal := .next { s with ret := r }

/-- An operation on one bus (R20): the other buses are untouched, the result is handed back to the caller. -/
def busOperation (b : BusId) (s : State) (f : Ctx → Bus → Except Refusal (Bus × Ret)) : Host.Outcome State Fault Refusal :=
  match s.buses[b.val]? with
  | none => .refused .noSuchBus
  | some bus =>
    match f (ctxOf s b) bus with
    | .ok (bus', r) => .next { s with buses := s.buses.set b.val bus', ret := r }
    | .error e => .refused e

/-- A completion event or an engine micro-step on one bus: it has no caller, so it hands nothing back (log entry 15). -/
def busEvent (b : BusId) (s : State) (f : Ctx → Bus → Except Refusal Bus) : Host.Outcome State Fault Refusal :=
  match s.buses[b.val]? with
  | none => .refused .noSuchBus
  | some bus =>
    match f (ctxOf s b) bus with
    | .ok bus' => .next { s with buses := s.buses.set b.val bus' }
    | .error e => .refused e

/-! ## A bus and its nodes -/

/-- `raise X` (R10, R285): a label in the bus's record; the condition's effect is the step's own. -/
def Bus.raise (bus : Bus) (c : Cond) : Bus := { bus with raised := bus.raised ++ [c] }

/-- Sub-node `i` (R35). -/
def SubNodes.get (m : SubNodes) (i : Fin 5) : Node :=
  match i.val with
  | 0 => m.s0
  | 1 => m.s1
  | 2 => m.s2
  | 3 => m.s3
  | _ => m.s4

/-- Replace sub-node `i`. -/
def SubNodes.set (m : SubNodes) (i : Fin 5) (n : Node) : SubNodes :=
  match i.val with
  | 0 => { m with s0 := n }
  | 1 => { m with s1 := n }
  | 2 => { m with s2 := n }
  | 3 => { m with s3 := n }
  | _ => { m with s4 := n }

/-- The instance a node operand names (R32, R35). -/
def Bus.node (bus : Bus) : NodeId → Node
  | .main => bus.main
  | .sub i => bus.subs.get i

/-- Replace one node. -/
def Bus.setNode (bus : Bus) (id : NodeId) (n : Node) : Bus :=
  match id with
  | .main => { bus with main := n }
  | .sub i => { bus with subs := bus.subs.set i n }

/-- Change one node. -/
def Bus.updNode (bus : Bus) (id : NodeId) (f : Node → Node) : Bus := bus.setNode id (f (bus.node id))

/-- Change every sub-node. -/
def SubNodes.map (f : Node → Node) (m : SubNodes) : SubNodes :=
  { s0 := f m.s0, s1 := f m.s1, s2 := f m.s2, s3 := f m.s3, s4 := f m.s4 }

/-! ## The lines (R155 to R157) -/

/-- What the block does to a line. -/
def Transport.drive (t : Transport) : Line → Drive
  | .a => t.driveA
  | .b => t.driveB

/-- The level of a line at an instant (R156, wired-AND): high exactly when the block and the environment both release
it. -/
def Bus.lineHigh (bus : Bus) (l : Line) (at' : Nat) : Bool :=
  decide (bus.t.drive l = .release) &&
    bus.env.all (fun p => decide (p.line ≠ l) || decide (at' < p.start) || decide (p.stop < at'))

/-- `LinesIdleDuring(t0, t1)` (R157): both lines high at every instant of the closed interval. A pulse whose end lies
before its start is no pulse. -/
def Bus.linesIdleDuring (bus : Bus) (t0 t1 : Nat) : Bool :=
  decide (bus.t.driveA = .release) && decide (bus.t.driveB = .release) &&
    bus.env.all (fun p => decide (p.stop < p.start) || decide (p.stop < t0) || decide (t1 < p.start))

/-- `now` as a step of this bus reads it: the clock, but never before the end of the bus's last open-line window (R204;
log entry 9). Another bus's window is not looked at: a host operation on another bus, or on none, that is scheduled
inside this bus's window runs at its own time (DESIGN CHOICE, log entry 41). -/
def Bus.instant (bus : Bus) (now : Nat) : Nat := max now bus.windowEnd

/-- The lines are left as a shape ends (R158, R160). -/
def Transport.driveShape (t : Transport) (shape : List Segment) : Transport :=
  match shape.getLast? with
  | none => t
  | some seg => { t with driveA := seg.lineA, driveB := seg.lineB }

/-! ## WRITE, the test-and-set of the busy state (R73, R204) -/

/-- The bus is busy (R28). -/
def Transport.busy (t : Transport) : Bool := t.writeBusy || t.readBusy

/-- The transport after an accepted WRITE whose open-line window ended at `t1` (R204). The elements of `T.WB` beyond the new
length keep what an earlier frame left there (U11, "any value"; DESIGN CHOICE, log entry 42). -/
def Transport.accept (t : Transport) (p : Params) (t1 : Nat) (command recipient : Byte) (payload : List Word)
    (len : Byte) (expectResponse : Bool) (readTimeout : Word) : Transport :=
  let w := frameBytes p.hdrLayout command t.hostAddr recipient payload len
  { t with
    wb := writeCells t.wb 0 w
    wbLen := frameSize len.toNat
    expectResponse := expectResponse
    readTimeout := readTimeout
    writeBusy := true
    deadline := t1 + writeTimeout p len
    txPhase := .start
    txBit := 0 }

/-- WRITE (R204) on a payload of at least `len` words: busy first, then the lines (R297), then the frame. `t0` is the time
the bus has reached: inside NODE.TASK, whose earlier WRITE watched the lines in vain, the end of that window (DESIGN
CHOICE, log entry 38). -/
def Bus.write (c : Ctx) (bus : Bus) (command recipient : Byte) (payload : List Word) (len : Byte)
    (expectResponse : Bool) (readTimeout : Word) : Bus × Bool :=
  if bus.t.busy then (bus.raise .busBusy, false)
  else
    let t0 := bus.instant c.now
    let t1 := t0 + c.cfg.openLineCheckUs
    if bus.linesIdleDuring t0 t1 then
      ({ bus with
          t := bus.t.accept c.cfg t1 command recipient payload len expectResponse readTimeout
          windowEnd := t1 }, true)
    else (({ bus with windowEnd := t1 } : Bus).raise .lineNotIdle, false)

/-! ## The snapshot (R67, R72) -/

/-- Publish a frame: the three fields of the snapshot in one step (R212). The elements of `T.LV` beyond the new length keep
what an earlier frame left there (U11, "any value"; DESIGN CHOICE, log entry 42). -/
def Transport.publish (t : Transport) (p : ParsedFrame) : Transport :=
  { t with lv := writeCells t.lv 0 p.words, lvLen := 1 + p.length.toNat, lvNew := true }

/-- GETREADDATA (R207): a copy of the snapshot, the flag, and the flag cleared. -/
def Bus.getReadData (bus : Bus) : Except Refusal (Bus × List Word × Nat × Bool) :=
  match readCells bus.t.lv 0 bus.t.lvLen with
  | .error i => .error (.unwritten .lv i)
  | .ok words => .ok ({ bus with t := { bus.t with lvNew := false } }, words, bus.t.lvLen, bus.t.lvNew)

/-! ## Taking a completion event (R290, R295) -/

/-- The transport once reception is armed at `tc` (R175, R210). Only the count of `T.RB` is cleared (R26); its elements, now
beyond the length, keep what an earlier reception left there (U11, "any value"; DESIGN CHOICE, log entry 42). -/
def Transport.arm (t : Transport) (tc : Nat) : Transport :=
  { t with
    rbCount := 0, rxBitCnt := 0, rxShift := 0, rxCrc := crcInit
    rxOverflow := false, rxBad := false
    rxPhase := .waitStart
    readBusy := true
    deadline := tc + t.readTimeout.toNat }

/-- TXCOMPLETE (R210): the write phase ends and, if a response is expected, the read phase starts in the same step. It
is raised by the transmitter that has come to rest (R164, R290); while the transmitter runs there is no such event (U3),
and the step is refused (log entry 20). -/
def Bus.takeTxComplete (c : Ctx) (bus : Bus) : Except Refusal Bus :=
  if bus.t.writeBusy then
    if bus.t.txPhase = .idle then
      let t := { bus.t with writeBusy := false }
      .ok { bus with t := if t.expectResponse then t.arm (bus.instant c.now) else t }
    else .error .notRaised
  else .error .notWriteBusy

/-- What RXCOMPLETE makes of received bytes of a right size (R212), the tests in the order of R297 (b). -/
def Bus.judge (c : Ctx) (bus : Bus) (bytes : List Byte) (count : Nat) : Bus :=
  if !crcValid bytes count then bus.raise .crcMismatch
  else
    match parseFrame c.cfg.hdrLayout bytes count with
    | none => bus.raise .malformed
    | some p => { bus with t := bus.t.publish p }

/-- RXCOMPLETE (R212): the read phase ends; a valid frame is published, everything else is discarded, a reception that a
latch or its size spoils unread. It is raised by the receiver that has come to rest, with `T.rbCount` as its operand
(R182, R290); while the receiver runs, or with another operand, there is no such event (U3), and the step is refused (log
entry 20). -/
def Bus.takeRxComplete (c : Ctx) (bus : Bus) (count : Nat) : Except Refusal Bus :=
  if bus.t.readBusy then
    let bus1 := { bus with t := { bus.t with readBusy := false } }
    if bus.t.rxPhase ≠ .off ∨ count ≠ bus.t.rbCount then .error .notRaised
    else if bus.t.rxBad || bus.t.rxOverflow || !frameSizeOk count then .ok (bus1.raise .malformed)
    else if bufBytes < count then .error .countTooLarge
    else
      match readCells bus.t.rb 0 count with
      | .error i => .error (.unwritten .rb i)
      | .ok bytes => .ok (bus1.judge c bytes count)
  else .error .notReadBusy

end Sys2Proof.Machine
end

