-- ==== Sys2Proof/Machine/Codec.lean ====
section
/-! DEFINITION. The Frame Codec's operations (spec/40_frame_codec.md) and the address codec's (spec/41_address_codec.md). -/

namespace Sys2Proof.Machine

/-- An operation on the first `n` bytes of an array: `n` at most `BUF_BYTES` and the array long enough (R336). -/
def onBytes (bytes : List Byte) (n : Nat) (s : State) (r : Ret) : Host.Outcome State Fault Refusal :=
  if bufBytes < n then .refused .countTooLarge
  else if bytes.length < n then .refused .arrayTooShort
  else handBack s r

/-- COMPUTECRC (R123). -/
def execComputeCrc (bytes : List Byte) (n : Nat) (s : State) : Host.Outcome State Fault Refusal :=
  onBytes bytes n s (.crc (crcOf (bytes.take n)))

/-- ENCODE (R124). -/
def execEncode (command senderAddr recipientAddr : Byte) (payload : List Word) (len : Byte) (s : State) :
    Host.Outcome State Fault Refusal :=
  if payload.length < len.toNat then .refused .arrayTooShort
  else
    handBack s
      (.wire (frameBytes s.cfg.hdrLayout command senderAddr recipientAddr payload len) (frameSize len.toNat))

/-- VALIDATE (R126). -/
def execValidate (bytes : List Byte) (n : Nat) (s : State) : Host.Outcome State Fault Refusal :=
  onBytes bytes n s (.bool (crcValid bytes n))

/-- PARSE (R128). -/
def execParse (bytes : List Byte) (n : Nat) (s : State) : Host.Outcome State Fault Refusal :=
  onBytes bytes n s (.parsed (parseFrame s.cfg.hdrLayout bytes n))

/-- GETRECIPIENTADDRESS (R140). -/
def execGetRecipientAddress (player : Byte) (target : Target) (s : State) : Host.Outcome State Fault Refusal :=
  if 3 < player.toNat then .refused .badPlayer
  else
    match target with
    | .main => handBack s (.addr (mainAddress (player.setWidth 2)))
    | .sub i =>
      if h : i.toNat < 5 then handBack s (.addr (subAddress (player.setWidth 2) ⟨i.toNat, h⟩))
      else .refused .badSubIndex

/-- SUBPERIPHERALMASK (R142). -/
def execSubPeripheralMask (addr : Byte) (s : State) : Host.Outcome State Fault Refusal :=
  handBack s (.mask ((submask addr).setWidth 8))

/-- SUBPERIPHERALINDEX (R144). -/
def execSubPeripheralIndex (addr : Byte) (s : State) : Host.Outcome State Fault Refusal :=
  match oneHotIndex (submask addr) with
  | none => .refused .notOneHot
  | some i => handBack s (.index i.val)

/-- CRC.CLEAR (R120), on the machine's CRC register (log entry 14). -/
def execCrcClear (s : State) : Host.Outcome State Fault Refusal := .next { s with crc := crcInit }

/-- CRC.UPDATE (R121), on the machine's CRC register (log entry 14). -/
def execCrcUpdate (byte : Byte) (s : State) : Host.Outcome State Fault Refusal :=
  .next { s with crc := crcStep s.crc byte }

end Sys2Proof.Machine
end

