-- ==== Sys2Proof/Machine/Poller.lean ====
section
/-! DEFINITION. The Controller Poller (spec/46_controller_poller.md). -/

namespace Sys2Proof.Machine

/-- A call into the collaborator, in the node's output trace (R272, R305). -/
def Node.emit (n : Node) (calls : List CollabCall) : Node := { n with calls := n.calls ++ calls }

/-- POLLER.ATTACH (R256). -/
def Node.attach (p : Params) (n : Node) : Node :=
  ({ n with
      poller :=
        { n.poller with
          attached := true
          cond := neutralCondition p.condLayout
          waiting := false
          noData := 0
          nextCheck := 0
          newData := false } } : Node).emit [.updateControllerConnected true]

/-- POLLER.DETACH (R258). -/
def Node.detach (n : Node) : Node :=
  ({ n with poller := { n.poller with attached := false, newData := false } } : Node).emit
    [.updateControllerConnected false]

/-- The latched frame is a condition response of the expected shape (R97, R260). -/
def Poller.expectedShape (p : Params) (q : Poller) : Bool :=
  decide (q.rxCmd = p.cmdDataTransfer) && decide (q.rxLen = p.condRespLen)

/-- Transition 1 of POLLER.TICK (R260) on a set latch: the counter and the state are reset; a frame of the expected
shape is decoded, forwarded and stored. -/
def Node.takeData (p : Params) (n : Node) : Node :=
  let q := { n.poller with newData := false, noData := 0, waiting := false }
  if n.poller.expectedShape p then
    let new := decodeCondition p.condLayout n.poller.rxW0 n.poller.rxW1
    ({ n with poller := { q with cond := new } } : Node).emit
      (forwardChanges (numButtons p.condLayout) n.poller.cond new)
  else { n with poller := q }

/-- Transition 1 of POLLER.TICK (R260). -/
def Bus.transition1 (c : Ctx) (bus : Bus) (id : NodeId) : Bus :=
  if (bus.node id).poller.newData then
    let b := bus.updNode id (Node.takeData c.cfg)
    if (bus.node id).poller.expectedShape c.cfg then b else b.raise .unexpectedFrame
  else bus

/-- Change the poller of a node. -/
def Bus.updPoller (bus : Bus) (id : NodeId) (f : Poller → Poller) : Bus :=
  bus.updNode id fun n => { n with poller := f n.poller }

/-- `POLL(N)` (R106) with the bookkeeping of R262: only an accepted write starts a wait. -/
def Bus.poll (c : Ctx) (currentTime : Nat) (bus : Bus) (id : NodeId) : Bus :=
  let r := bus.write c c.cfg.cmdGetCondition (bus.node id).addr c.cfg.condReqPayload (condReqLen c.cfg) true
    c.cfg.condReadTimeoutUs
  if r.2 then
    r.1.updPoller id fun q => { q with waiting := true, nextCheck := currentTime + c.cfg.pollPeriodUs }
  else r.1

/-- `DISCONNECT_THRESHOLD` (R6). -/
def disconnectThreshold : Nat := 3

/-- A missed poll (R262): the count, and at the threshold the report of a disconnection. -/
def Bus.missedPoll (c : Ctx) (currentTime : Nat) (bus : Bus) (id : NodeId) : Bus × Bool :=
  let b := bus.raise .missedPoll
  if (bus.node id).poller.noData + 1 = disconnectThreshold then
    ((b.updPoller id fun q =>
        { q with cond := neutralCondition c.cfg.condLayout, noData := 0, waiting := false }).raise .disconnect, false)
  else
    let b1 := b.updPoller id fun q => { q with noData := q.noData + 1, waiting := false }
    (if c.cfg.repollOnMiss then b1.poll c currentTime id else b1, true)

/-- Transition 2 of POLLER.TICK (R262). -/
def Bus.transition2 (c : Ctx) (currentTime : Nat) (bus : Bus) (id : NodeId) : Bus × Bool :=
  if expired currentTime (bus.node id).poller.nextCheck then
    if (bus.node id).poller.waiting then bus.missedPoll c currentTime id
    else (bus.poll c currentTime id, true)
  else (bus, true)

/-- POLLER.TICK (R260) on an attached poller: transition 1, then transition 2; the result is `connected`. -/
def Bus.tick (c : Ctx) (currentTime : Nat) (bus : Bus) (id : NodeId) : Bus × Bool :=
  (bus.transition1 c id).transition2 c currentTime id

/-- POLLER.TICK (R260). -/
def execPollerTick (bus : BusId) (node : NodeId) (currentTime : Nat) (s : State) : Host.Outcome State Fault Refusal :=
  busOperation bus s fun c b =>
    if (b.node node).poller.attached then
      let r := b.tick c currentTime node
      .ok (r.1, .bool r.2)
    else .error .notAttached

/-- POLLER.ATTACH (R256). -/
def execPollerAttach (bus : BusId) (node : NodeId) (s : State) : Host.Outcome State Fault Refusal :=
  busOperation bus s fun c b => .ok (b.updNode node (Node.attach c.cfg), .none)

/-- POLLER.DETACH (R258). -/
def execPollerDetach (bus : BusId) (node : NodeId) (s : State) : Host.Outcome State Fault Refusal :=
  busOperation bus s fun _ b => .ok (b.updNode node Node.detach, .none)

/-- COND.DECODE (R268). -/
def execCondDecode (w0 w1 : Word) (s : State) : Host.Outcome State Fault Refusal :=
  handBack s (.condition (decodeCondition s.cfg.condLayout w0 w1))

end Sys2Proof.Machine
end

