-- ==== Sys2Proof/Machine/Peripheral.lean ====
section
/-! DEFINITION. The Peripheral Node: presence, probing, dispatch and fan-out (spec/45_peripheral_node.md). -/

namespace Sys2Proof.Machine

/-- NODE.SETCONNECTED on one node (R240): presence, and no poller outlives it. -/
def Node.setConnected (state : Bool) (n : Node) : Node :=
  let m := { n with present := state }
  if !state && m.poller.attached then m.detach else m

/-- NODE.MAINPERIPHERALDISCONNECTED (R242): every sub-node becomes absent. -/
def Bus.disconnectSubs (bus : Bus) : Bus := { bus with subs := bus.subs.map (Node.setConnected false) }

/-- NODE.SETCONNECTED (R240): the only place presence is assigned (R248); a main node cascades. `true` on a sub-node
assigns whether or not its main node is present, as R240's pseudocode does, although R248 infers that a sub-node is present
only if its main node is (DESIGN CHOICE, log entry 40). -/
def Bus.setConnected (bus : Bus) (id : NodeId) (state : Bool) : Bus :=
  let b := bus.updNode id (Node.setConnected state)
  match id with
  | .main => if state then b else b.disconnectSubs
  | .sub _ => b

/-- The new-data latch of a node's poller (R40, R232): a word the frame does not have reads 0. -/
def Node.latch (len cmd : Byte) (payload : List Word) (n : Node) : Node :=
  { n with
    poller :=
      { n.poller with
        newData := true
        rxCmd := cmd
        rxLen := len
        rxW0 := if 1 ≤ len.toNat then payload.headD 0 else 0
        rxW1 := if 2 ≤ len.toNat then payload.getD 1 0 else 0 } }

/-- NODE.HANDLEDATA (R232) on a payload of at least `len` words. -/
def Bus.handleData (c : Ctx) (bus : Bus) (id : NodeId) (len cmd : Byte) (payload : List Word) : Bus × Bool :=
  if cmd = c.cfg.cmdDeviceInfoResponse then
    let b := bus.setConnected id true
    (if evalFrameTest len payload c.cfg.isController && !(bus.node id).poller.attached then
      b.updNode id (Node.attach c.cfg) else b, true)
  else if cmd = c.cfg.cmdDataTransfer ∧ (bus.node id).poller.attached = true then
    (bus.updNode id (Node.latch len cmd payload), true)
  else (bus.raise .unexpectedFrame, false)

/-- The node a sender byte of this bus's player names (R108, R246): bit 5 first, then a one-hot mask while the main node
is present. -/
def Bus.route (bus : Bus) (sender : Byte) : Option NodeId :=
  if isMain sender then some .main
  else if bus.main.present then (oneHotIndex (submask sender)).map NodeId.sub
  else none

/-- MAIN.DISPATCH (R246). -/
def Bus.dispatch (c : Ctx) (bus : Bus) (words : List Word) : Except Refusal (Bus × Bool) :=
  match words with
  | [] => .error .arrayTooShort
  | hdr :: payload =>
    let cmd := headerCommand c.cfg.hdrLayout hdr
    let sender := headerSender c.cfg.hdrLayout hdr
    let len := headerLength c.cfg.hdrLayout hdr
    match if playerOf sender = c.player then bus.route sender else none with
    | none => .ok (bus.raise .unexpectedFrame, false)
    | some id =>
      if payload.length < len.toNat then .error .arrayTooShort
      else .ok (bus.handleData c id len cmd payload)

/-- Part (1) of NODE.TASK on a main node (R236): the single consumer of received frames. -/
def Bus.consumeFrame (c : Ctx) (bus : Bus) : Except Refusal Bus :=
  match bus.getReadData with
  | .error e => .error e
  | .ok (b, words, length, isNew) =>
    if isNew then
      if length = 0 then .error .emptyFrame
      else
        match b.dispatch c words with
        | .error e => .error e
        | .ok (b', _) => .ok b'
    else .ok b

/-- `PROBE(N)` (R106) with the bookkeeping of R236: only an accepted write moves the schedule. -/
def Bus.probe (c : Ctx) (currentTime : Nat) (bus : Bus) (id : NodeId) : Bus :=
  let r := bus.write c c.cfg.cmdDeviceInfoRequest (bus.node id).addr [] 0 true c.cfg.probeReadTimeoutUs
  if r.2 then r.1.updNode id fun n => { n with nextProbe := currentTime + c.cfg.probePeriodUs } else r.1

/-- Part (2) of NODE.TASK (R236): an absent node probes, a present one ticks its poller, and repeated silence
disconnects it. -/
def Bus.ownWork (c : Ctx) (currentTime : Nat) (bus : Bus) (id : NodeId) : Bus :=
  if (bus.node id).present then
    if (bus.node id).poller.attached then
      let r := bus.tick c currentTime id
      if r.2 then r.1 else (r.1.updNode id Node.detach).setConnected id false
    else bus
  else if expired currentTime (bus.node id).nextProbe then bus.probe c currentTime id
  else bus

/-- Part (3) of NODE.TASK on a main node (R236): the sub-nodes' tasks in index order. -/
def Bus.fanOut (c : Ctx) (currentTime : Nat) (bus : Bus) : Bus :=
  [0, 1, 2, 3, 4].foldl (fun b i => b.ownWork c currentTime (.sub i)) bus

/-- NODE.TASK (R236). -/
def Bus.task (c : Ctx) (currentTime : Nat) (bus : Bus) (id : NodeId) : Except Refusal Bus :=
  match id with
  | .sub i => .ok (bus.ownWork c currentTime (.sub i))
  | .main =>
    match bus.consumeFrame c with
    | .error e => .error e
    | .ok b =>
      let b1 := b.ownWork c currentTime .main
      .ok (if b1.main.present then b1.fanOut c currentTime else b1)

/-- NODE.HANDLEDATA (R232). -/
def execNodeHandleData (bus : BusId) (node : NodeId) (len cmd : Byte) (payload : List Word) (s : State) :
    Host.Outcome State Fault Refusal :=
  busOperation bus s fun c b =>
    if payload.length < len.toNat then .error .arrayTooShort
    else
      let r := b.handleData c node len cmd payload
      .ok (r.1, .bool r.2)

/-- NODE.TASK (R236). -/
def execNodeTask (bus : BusId) (node : NodeId) (currentTime : Nat) (s : State) : Host.Outcome State Fault Refusal :=
  busOperation bus s fun c b =>
    match b.task c currentTime node with
    | .error e => .error e
    | .ok b' => .ok (b', .none)

/-- NODE.SETCONNECTED (R240). -/
def execNodeSetConnected (bus : BusId) (node : NodeId) (state : Bool) (s : State) : Host.Outcome State Fault Refusal :=
  busOperation bus s fun _ b => .ok (b.setConnected node state, .none)

/-- NODE.MAINPERIPHERALDISCONNECTED (R242). -/
def execNodeMainPeripheralDisconnected (bus : BusId) (node : NodeId) (s : State) : Host.Outcome State Fault Refusal :=
  busOperation bus s fun _ b =>
    match node with
    | .main => .ok (b.disconnectSubs, .none)
    | .sub _ => .error .notMainNode

/-- NODE.ISPRESENT (R244). -/
def execNodeIsPresent (bus : BusId) (node : NodeId) (s : State) : Host.Outcome State Fault Refusal :=
  busOperation bus s fun _ b => .ok (b, .bool (b.node node).present)

/-- MAIN.DISPATCH (R246). -/
def execMainDispatch (bus : BusId) (words : List Word) (length : Nat) (s : State) : Host.Outcome State Fault Refusal :=
  busOperation bus s fun c b =>
    if length = 0 then .error .emptyFrame
    else if words.length < length then .error .arrayTooShort
    else
      match b.dispatch c words with
      | .error e => .error e
      | .ok (b', handled) => .ok (b', .bool handled)

end Sys2Proof.Machine
end

