-- ==== Sys2Proof/Machine/Receiver.lean ====
section
/-! DEFINITION. The receive engine's micro-steps (spec/43_bus_receiver.md). -/

namespace Sys2Proof.Machine

/-- A micro-step of the receiver that is enabled in phase `phase` (R103). In OFF and DEAD the symbol it stands for is
dropped (R175, R184); in the other active phase the symbol is another micro-step's (log entry 18). -/
def Bus.onSymbol (bus : Bus) (phase : RxPhase) (f : Bus → Except Refusal Bus) : Except Refusal Bus :=
  if bus.t.rxPhase = .off ∨ bus.t.rxPhase = .dead then .ok bus
  else if bus.t.rxPhase = phase then f bus
  else .error .notEnabled

/-- RX.WAITSTART (R177): START opens the frame, any other symbol is dropped. -/
def Bus.rxWaitStart (bus : Bus) (symbol : Symbol) : Except Refusal Bus :=
  bus.onSymbol .waitStart fun b =>
    if symbol = .start then .ok { b with t := { b.t with rxPhase := .data } } else .ok b

/-- The transport after a received byte is complete (R179, R180): stored and folded into the CRC while the buffer has
room, else only the overflow latch is set. Elements of `T.RB` beyond the new count are left (log entry 42). -/
def Transport.storeByte (t : Transport) (byte : Byte) : Transport :=
  if t.rbCount < bufBytes then
    { t with
      rb := writeCell t.rb t.rbCount byte
      rxCrc := crcStep t.rxCrc byte
      rbCount := t.rbCount + 1
      rxBitCnt := 0 }
  else { t with rxOverflow := true, rxBitCnt := 0 }

/-- One bit shifted in (R179). -/
def Transport.shiftIn (t : Transport) (b : Bool) : Transport :=
  let shifted := t.rxShift.shiftConcat b
  let t1 := { t with rxShift := shifted }
  if t.rxBitCnt = 7 then t1.storeByte shifted else { t1 with rxBitCnt := t.rxBitCnt + 1 }

/-- The reception is dead until its timeout (R184). -/
def Transport.kill (t : Transport) : Transport := { t with rxPhase := .dead }

/-- RX.BIT (R179). Received bit `k` belongs to line phase `k mod 2`, which is
`T.rxBitCnt mod 2`, as a byte has eight bits; a bit seen on the wrong line phase is BAD (R176) and does what RX.BAD does
(log entry 39). -/
def Bus.rxBit (c : Ctx) (bus : Bus) (bit : ClockedBit) : Except Refusal Bus :=
  bus.onSymbol .data fun b =>
    .ok { b with t := if bit.clock = clockLine c.cfg b.t.rxBitCnt.val then b.t.shiftIn bit.value else b.t.kill }

/-- RX.END (R182): the latch for an incomplete byte, the engine off, and RXCOMPLETE taken in the same step. -/
def Bus.rxEnd (c : Ctx) (bus : Bus) : Except Refusal Bus :=
  bus.onSymbol .data fun b =>
    Bus.takeRxComplete c { b with t := { b.t with rxBad := decide (b.t.rxBitCnt ≠ 0), rxPhase := .off } } b.t.rbCount

/-- RX.BAD (R184): the reception is dead until its timeout. -/
def Bus.rxBad (bus : Bus) : Except Refusal Bus :=
  bus.onSymbol .data fun b => .ok { b with t := b.t.kill }

/-- RX.WAITSTART (R177). -/
def execRxWaitStart (bus : BusId) (symbol : Symbol) (s : State) : Host.Outcome State Fault Refusal :=
  busEvent bus s fun _ b => b.rxWaitStart symbol

/-- RX.BIT (R179). -/
def execRxBit (bus : BusId) (bit : ClockedBit) (s : State) : Host.Outcome State Fault Refusal :=
  busEvent bus s fun c b => b.rxBit c bit

/-- RX.END (R182). -/
def execRxEnd (bus : BusId) (s : State) : Host.Outcome State Fault Refusal := busEvent bus s fun c b => b.rxEnd c

/-- RX.BAD (R184). -/
def execRxBad (bus : BusId) (s : State) : Host.Outcome State Fault Refusal := busEvent bus s fun _ b => b.rxBad

end Sys2Proof.Machine
end

