-- ==== Sys2Proof/Machine/Transmitter.lean ====
section
/-! DEFINITION. The transmit engine's micro-steps (spec/42_bus_transmitter.md). -/

namespace Sys2Proof.Machine

/-- `emit s` (R158): the shape drives the lines, the symbol joins the record `Wire.tx`. -/
def Bus.emit (bus : Bus) (symbol : TxSymbol) (shape : List Segment) : Bus :=
  { bus with t := bus.t.driveShape shape, wireTx := bus.wireTx ++ [symbol] }

/-- TX.START (R160). -/
def Bus.txStart (c : Ctx) (bus : Bus) : Except Refusal Bus :=
  if bus.t.txPhase = .start then
    let b := bus.emit .start c.cfg.startSeq
    .ok { b with t := { b.t with txPhase := .data } }
  else .error .notEnabled

/-- TX.BIT (R162). -/
def Bus.txBit (c : Ctx) (bus : Bus) : Except Refusal Bus :=
  if bus.t.txPhase = .data then
    let k := bus.t.txBit
    match readCell bus.t.wb (k / 8) with
    | none => .error (.unwritten .wb (k / 8))
    | some byte =>
      let v := frameBit byte k
      let b := bus.emit (.bit ⟨v, clockLine c.cfg k⟩) (bitWave c.cfg k v)
      .ok { b with t := { b.t with txBit := k + 1, txPhase := if k + 1 = 8 * b.t.wbLen then .stop else .data } }
  else .error .notEnabled

/-- TX.END (R164): both lines released, the engine at rest, and TXCOMPLETE taken in the same step. -/
def Bus.txEnd (c : Ctx) (bus : Bus) : Except Refusal Bus :=
  if bus.t.txPhase = .stop then
    let b := bus.emit .stop c.cfg.endSeq
    Bus.takeTxComplete c { b with t := { b.t with driveA := .release, driveB := .release, txPhase := .idle } }
  else .error .notEnabled

/-- TX.START (R160). -/
def execTxStart (bus : BusId) (s : State) : Host.Outcome State Fault Refusal := busEvent bus s fun c b => b.txStart c

/-- TX.BIT (R162). -/
def execTxBit (bus : BusId) (s : State) : Host.Outcome State Fault Refusal := busEvent bus s fun c b => b.txBit c

/-- TX.END (R164). -/
def execTxEnd (bus : BusId) (s : State) : Host.Outcome State Fault Refusal := busEvent bus s fun c b => b.txEnd c

end Sys2Proof.Machine
end

