-- ==== Sys2Proof/Machine/Transport.lean ====
section
/-! DEFINITION. The Bus Transport's host operations and its two completion events (spec/44_bus_transport.md). -/

namespace Sys2Proof.Machine

/-- WRITE (R204). -/
def execWrite (bus : BusId) (command recipientAddr : Byte) (payload : List Word) (len : Byte) (expectResponse : Bool)
    (readTimeout : Word) (s : State) : Host.Outcome State Fault Refusal :=
  busOperation bus s fun c b =>
    if payload.length < len.toNat then .error .arrayTooShort
    else
      let r := b.write c command recipientAddr payload len expectResponse readTimeout
      .ok (r.1, .bool r.2)

/-- GETREADDATA (R207). -/
def execGetReadData (bus : BusId) (s : State) : Host.Outcome State Fault Refusal :=
  busOperation bus s fun _ b => do
    let (b', words, length, isNew) ← b.getReadData
    .ok (b', .readData words length isNew)

/-- The write phase is timed out (R167, R208). -/
def Transport.abortWrite (t : Transport) : Transport :=
  { t with txPhase := .idle, driveA := .release, driveB := .release, writeBusy := false, expectResponse := false }

/-- The read phase is timed out (R186, R208). -/
def Transport.abortRead (t : Transport) : Transport := { t with rxPhase := .off, readBusy := false }

/-- PROCESSEVENTS (R208): the only step that reads `T.deadline` (R216). -/
def Bus.processEvents (bus : Bus) (currentTime : Nat) : Bus :=
  if bus.t.writeBusy && expired currentTime bus.t.deadline then
    { bus.raise .writeTimeout with t := bus.t.abortWrite }
  else if bus.t.readBusy && expired currentTime bus.t.deadline then
    { bus.raise .readTimeout with t := bus.t.abortRead }
  else bus

/-- PROCESSEVENTS (R208). -/
def execProcessEvents (bus : BusId) (currentTime : Nat) (s : State) : Host.Outcome State Fault Refusal :=
  busOperation bus s fun _ b => .ok (b.processEvents currentTime, .none)

/-- TXCOMPLETE (R210) as a step by itself, where TX.END hands over to it (log entry 20). -/
def execTxComplete (bus : BusId) (s : State) : Host.Outcome State Fault Refusal :=
  busEvent bus s fun c b => b.takeTxComplete c

/-- RXCOMPLETE (R212) as a step by itself, where RX.END hands over to it, `count` being `T.rbCount` (log entry 20). -/
def execRxComplete (bus : BusId) (count : Nat) (s : State) : Host.Outcome State Fault Refusal :=
  busEvent bus s fun c b => b.takeRxComplete c count

end Sys2Proof.Machine
end

