-- ==== Sys2Proof/Machine/Dispatch.lean ====
section
/-! DEFINITION. The meaning of every step: one arm per constructor of `Instr`, each one direct call. -/

namespace Sys2Proof.Machine

def exec (i : Instr) (s : State) : Host.Outcome State Fault Refusal :=
  match i with
  | .computeCrc bytes n => Sys2Proof.Machine.execComputeCrc bytes n s
  | .encode command senderAddr recipientAddr payload len => Sys2Proof.Machine.execEncode command senderAddr recipientAddr payload len s
  | .validate bytes n => Sys2Proof.Machine.execValidate bytes n s
  | .parse bytes n => Sys2Proof.Machine.execParse bytes n s
  | .getRecipientAddress player target => Sys2Proof.Machine.execGetRecipientAddress player target s
  | .subPeripheralMask addr => Sys2Proof.Machine.execSubPeripheralMask addr s
  | .subPeripheralIndex addr => Sys2Proof.Machine.execSubPeripheralIndex addr s
  | .write bus command recipientAddr payload len expectResponse readTimeout => Sys2Proof.Machine.execWrite bus command recipientAddr payload len expectResponse readTimeout s
  | .getReadData bus => Sys2Proof.Machine.execGetReadData bus s
  | .processEvents bus currentTime => Sys2Proof.Machine.execProcessEvents bus currentTime s
  | .nodeHandleData bus node len cmd payload => Sys2Proof.Machine.execNodeHandleData bus node len cmd payload s
  | .nodeTask bus node currentTime => Sys2Proof.Machine.execNodeTask bus node currentTime s
  | .nodeSetConnected bus node state => Sys2Proof.Machine.execNodeSetConnected bus node state s
  | .nodeMainPeripheralDisconnected bus node => Sys2Proof.Machine.execNodeMainPeripheralDisconnected bus node s
  | .nodeIsPresent bus node => Sys2Proof.Machine.execNodeIsPresent bus node s
  | .mainDispatch bus words length => Sys2Proof.Machine.execMainDispatch bus words length s
  | .pollerTick bus node currentTime => Sys2Proof.Machine.execPollerTick bus node currentTime s
  | .pollerAttach bus node => Sys2Proof.Machine.execPollerAttach bus node s
  | .pollerDetach bus node => Sys2Proof.Machine.execPollerDetach bus node s
  | .condDecode w0 w1 => Sys2Proof.Machine.execCondDecode w0 w1 s
  | .txComplete bus => Sys2Proof.Machine.execTxComplete bus s
  | .rxComplete bus count => Sys2Proof.Machine.execRxComplete bus count s
  | .crcClear => Sys2Proof.Machine.execCrcClear s
  | .crcUpdate byte => Sys2Proof.Machine.execCrcUpdate byte s
  | .txStart bus => Sys2Proof.Machine.execTxStart bus s
  | .txBit bus => Sys2Proof.Machine.execTxBit bus s
  | .txEnd bus => Sys2Proof.Machine.execTxEnd bus s
  | .rxWaitStart bus symbol => Sys2Proof.Machine.execRxWaitStart bus symbol s
  | .rxBit bus b => Sys2Proof.Machine.execRxBit bus b s
  | .rxEnd bus => Sys2Proof.Machine.execRxEnd bus s
  | .rxBad bus => Sys2Proof.Machine.execRxBad bus s

end Sys2Proof.Machine
end

