-- ==== Sys2Proof/WellFormed.lean ====
section
/-! DEFINITION. Well-formed steps: those the byte layout of log entry 7 can write. The operand preconditions of R336 are not
here: a step that breaks one is refused by its meaning. Well-formed parameters stand in Config.lean. -/

namespace Sys2Proof

/-- A number that fits the 16-bit count fields of the operand layout. -/
def fits16 (n : Nat) : Bool := n < 65536

/-- Well-formed steps: every list and every count fits its 16-bit field; all other operands are held by their types. -/
def Instr.wf : Instr → Bool
  | .computeCrc bytes n => fits16 bytes.length && fits16 n
  | .encode _ _ _ payload _ => fits16 payload.length
  | .validate bytes n => fits16 bytes.length && fits16 n
  | .parse bytes n => fits16 bytes.length && fits16 n
  | .getRecipientAddress _ _ => true
  | .subPeripheralMask _ => true
  | .subPeripheralIndex _ => true
  | .write _ _ _ payload _ _ _ => fits16 payload.length
  | .getReadData _ => true
  | .processEvents _ _ => true
  | .nodeHandleData _ _ _ _ payload => fits16 payload.length
  | .nodeTask _ _ _ => true
  | .nodeSetConnected _ _ _ => true
  | .nodeMainPeripheralDisconnected _ _ => true
  | .nodeIsPresent _ _ => true
  | .mainDispatch _ words length => fits16 words.length && fits16 length
  | .pollerTick _ _ _ => true
  | .pollerAttach _ _ => true
  | .pollerDetach _ _ => true
  | .condDecode _ _ => true
  | .txComplete _ => true
  | .rxComplete _ count => fits16 count
  | .crcClear => true
  | .crcUpdate _ => true
  | .txStart _ => true
  | .txBit _ => true
  | .txEnd _ => true
  | .rxWaitStart _ _ => true
  | .rxBit _ _ => true
  | .rxEnd _ => true
  | .rxBad _ => true

end Sys2Proof
end

