-- ==== Sys2Proof/Decode.lean ====
section
/-! DEFINITION. The decoder and the encoder of a step. Byte 0 is the selector of spec/30_encoding.md R101 to R103; the operands the spec
passes "by value beside the selector" follow it in call order, in the byte layout of log entry 7. -/

namespace Sys2Proof

/-- Why bytes are no step: nothing there, a reserved selector (R107), operands that stop short, an operand byte that
encodes no value. -/
inductive DecodeError where
  | noBytes
  | reservedSelector (sel : Byte)
  | truncated
  | badOperand
deriving DecidableEq, Repr

/-- A `u8` operand: one byte. (Each reader below answers what it reads from the front of the bytes, with the bytes after
it.) -/
def getU8 : List Byte → Except DecodeError (Byte × List Byte)
  | [] => .error .truncated
  | b :: r => .ok (b, r)

/-- A 16-bit count, low byte first. -/
def getU16 : List Byte → Except DecodeError (Nat × List Byte)
  | lo :: hi :: r => .ok (lo.toNat + 256 * hi.toNat, r)
  | _ => .error .truncated

/-- A `u32` operand, little-endian as words are in memory (R62). -/
def getWord : List Byte → Except DecodeError (Word × List Byte)
  | b0 :: b1 :: b2 :: b3 :: r => .ok (b3 ++ b2 ++ b1 ++ b0, r)
  | _ => .error .truncated

/-- A `Bool` operand: 0 or 1. -/
def getBool : List Byte → Except DecodeError (Bool × List Byte)
  | [] => .error .truncated
  | b :: r => if b = 0 then .ok (false, r) else if b = 1 then .ok (true, r) else .error .badOperand

/-- A `Time` operand: groups of seven bits, lowest group first, bit 7 of a byte set when another group follows. -/
def getTime : List Byte → Except DecodeError (Nat × List Byte)
  | [] => .error .truncated
  | b :: r =>
    if b.toNat < 128 then .ok (b.toNat, r)
    else match getTime r with
      | .ok (t, r') => .ok (b.toNat - 128 + 128 * t, r')
      | .error e => .error e

/-- `n` bytes. -/
def getBytesN : Nat → List Byte → Except DecodeError (List Byte × List Byte)
  | 0, r => .ok ([], r)
  | n + 1, r => do
    let (b, r) ← getU8 r
    let (bs, r) ← getBytesN n r
    .ok (b :: bs, r)

/-- `n` words. -/
def getWordsN : Nat → List Byte → Except DecodeError (List Word × List Byte)
  | 0, r => .ok ([], r)
  | n + 1, r => do
    let (w, r) ← getWord r
    let (ws, r) ← getWordsN n r
    .ok (w :: ws, r)

/-- An array of bytes: its element count, then the bytes. -/
def getBytes (r : List Byte) : Except DecodeError (List Byte × List Byte) := do
  let (n, r) ← getU16 r
  getBytesN n r

/-- An array of words: its element count, then the words. -/
def getWords (r : List Byte) : Except DecodeError (List Word × List Byte) := do
  let (n, r) ← getU16 r
  getWordsN n r

/-- A bus number 0 to 3 (R20). -/
def getBus : List Byte → Except DecodeError (BusId × List Byte)
  | [] => .error .truncated
  | b :: r => if h : b.toNat < 4 then .ok (⟨b.toNat, h⟩, r) else .error .badOperand

/-- A node of a bus: 0 is the main node, `i + 1` is sub-node `i` (R32). -/
def getNode : List Byte → Except DecodeError (NodeId × List Byte)
  | [] => .error .truncated
  | b :: r =>
    if b.toNat = 0 then .ok (.main, r)
    else if h : b.toNat - 1 < 5 then .ok (.sub ⟨b.toNat - 1, h⟩, r)
    else .error .badOperand

/-- The operand `target` of R140: 0 is MAIN, 1 is SUB followed by its index. -/
def getTarget : List Byte → Except DecodeError (Target × List Byte)
  | [] => .error .truncated
  | b :: r =>
    if b = 0 then .ok (.main, r)
    else if b = 1 then
      match getU8 r with
      | .ok (i, r') => .ok (.sub i, r')
      | .error e => .error e
    else .error .badOperand

/-- A line: 0 is line A, 1 is line B. -/
def getLine : List Byte → Except DecodeError (Line × List Byte)
  | [] => .error .truncated
  | b :: r => if b = 0 then .ok (.a, r) else if b = 1 then .ok (.b, r) else .error .badOperand

/-- A symbol of R158: 0 START, 1 END, 2 BAD, 4 and 5 BIT(0) and BIT(1) clocked by line A, 6 and 7 by line B. -/
def getSymbol : List Byte → Except DecodeError (Symbol × List Byte)
  | [] => .error .truncated
  | b :: r =>
    match b with
    | 0#8 => .ok (.start, r)
    | 1#8 => .ok (.stop, r)
    | 2#8 => .ok (.bad, r)
    | 4#8 => .ok (.bit ⟨false, .a⟩, r)
    | 5#8 => .ok (.bit ⟨true, .a⟩, r)
    | 6#8 => .ok (.bit ⟨false, .b⟩, r)
    | 7#8 => .ok (.bit ⟨true, .b⟩, r)
    | _ => .error .badOperand

/-- The operands of the frame codec's and the address codec's operations (R101, SEL 0x00 to 0x06). -/
def decodeCodec (sel : Byte) (r : List Byte) : Except DecodeError (Instr × List Byte) :=
  match sel with
  | 0x00#8 => do
    let (bytes, r) ← getBytes r
    let (n, r) ← getU16 r
    .ok (.computeCrc bytes n, r)
  | 0x01#8 => do
    let (command, r) ← getU8 r
    let (snd, r) ← getU8 r
    let (rcp, r) ← getU8 r
    let (payload, r) ← getWords r
    let (len, r) ← getU8 r
    .ok (.encode command snd rcp payload len, r)
  | 0x02#8 => do
    let (bytes, r) ← getBytes r
    let (n, r) ← getU16 r
    .ok (.validate bytes n, r)
  | 0x03#8 => do
    let (bytes, r) ← getBytes r
    let (n, r) ← getU16 r
    .ok (.parse bytes n, r)
  | 0x04#8 => do
    let (player, r) ← getU8 r
    let (target, r) ← getTarget r
    .ok (.getRecipientAddress player target, r)
  | 0x05#8 => do
    let (addr, r) ← getU8 r
    .ok (.subPeripheralMask addr, r)
  | 0x06#8 => do
    let (addr, r) ← getU8 r
    .ok (.subPeripheralIndex addr, r)
  | _ => .error (.reservedSelector sel)

/-- The operands of the transport's operations and events (R101, SEL 0x08 to 0x0A; R102). -/
def decodeTransport (sel : Byte) (r : List Byte) : Except DecodeError (Instr × List Byte) :=
  match sel with
  | 0x08#8 => do
    let (bus, r) ← getBus r
    let (command, r) ← getU8 r
    let (rcp, r) ← getU8 r
    let (payload, r) ← getWords r
    let (len, r) ← getU8 r
    let (expect, r) ← getBool r
    let (timeout, r) ← getWord r
    .ok (.write bus command rcp payload len expect timeout, r)
  | 0x09#8 => do
    let (bus, r) ← getBus r
    .ok (.getReadData bus, r)
  | 0x0A#8 => do
    let (bus, r) ← getBus r
    let (t, r) ← getTime r
    .ok (.processEvents bus t, r)
  | 0x40#8 => do
    let (bus, r) ← getBus r
    .ok (.txComplete bus, r)
  | 0x41#8 => do
    let (bus, r) ← getBus r
    let (count, r) ← getU16 r
    .ok (.rxComplete bus count, r)
  | _ => .error (.reservedSelector sel)

/-- The operands of the node's operations (R101, SEL 0x10 to 0x15). -/
def decodeNode (sel : Byte) (r : List Byte) : Except DecodeError (Instr × List Byte) :=
  match sel with
  | 0x10#8 => do
    let (bus, r) ← getBus r
    let (node, r) ← getNode r
    let (len, r) ← getU8 r
    let (cmd, r) ← getU8 r
    let (payload, r) ← getWords r
    .ok (.nodeHandleData bus node len cmd payload, r)
  | 0x11#8 => do
    let (bus, r) ← getBus r
    let (node, r) ← getNode r
    let (t, r) ← getTime r
    .ok (.nodeTask bus node t, r)
  | 0x12#8 => do
    let (bus, r) ← getBus r
    let (node, r) ← getNode r
    let (st, r) ← getBool r
    .ok (.nodeSetConnected bus node st, r)
  | 0x13#8 => do
    let (bus, r) ← getBus r
    let (node, r) ← getNode r
    .ok (.nodeMainPeripheralDisconnected bus node, r)
  | 0x14#8 => do
    let (bus, r) ← getBus r
    let (node, r) ← getNode r
    .ok (.nodeIsPresent bus node, r)
  | 0x15#8 => do
    let (bus, r) ← getBus r
    let (words, r) ← getWords r
    let (length, r) ← getU16 r
    .ok (.mainDispatch bus words length, r)
  | _ => .error (.reservedSelector sel)

/-- The operands of the poller's operations (R101, SEL 0x18 to 0x1B). -/
def decodePoller (sel : Byte) (r : List Byte) : Except DecodeError (Instr × List Byte) :=
  match sel with
  | 0x18#8 => do
    let (bus, r) ← getBus r
    let (node, r) ← getNode r
    let (t, r) ← getTime r
    .ok (.pollerTick bus node t, r)
  | 0x19#8 => do
    let (bus, r) ← getBus r
    let (node, r) ← getNode r
    .ok (.pollerAttach bus node, r)
  | 0x1A#8 => do
    let (bus, r) ← getBus r
    let (node, r) ← getNode r
    .ok (.pollerDetach bus node, r)
  | 0x1B#8 => do
    let (w0, r) ← getWord r
    let (w1, r) ← getWord r
    .ok (.condDecode w0 w1, r)
  | _ => .error (.reservedSelector sel)

/-- The operands of the micro-steps (R103, SEL 0x80 to 0x8B). -/
def decodeSeq (sel : Byte) (r : List Byte) : Except DecodeError (Instr × List Byte) :=
  match sel with
  | 0x80#8 => .ok (.crcClear, r)
  | 0x81#8 => do
    let (byte, r) ← getU8 r
    .ok (.crcUpdate byte, r)
  | 0x84#8 => do
    let (bus, r) ← getBus r
    .ok (.txStart bus, r)
  | 0x85#8 => do
    let (bus, r) ← getBus r
    .ok (.txBit bus, r)
  | 0x86#8 => do
    let (bus, r) ← getBus r
    .ok (.txEnd bus, r)
  | 0x88#8 => do
    let (bus, r) ← getBus r
    let (symbol, r) ← getSymbol r
    .ok (.rxWaitStart bus symbol, r)
  | 0x89#8 => do
    let (bus, r) ← getBus r
    let (value, r) ← getBool r
    let (clock, r) ← getLine r
    .ok (.rxBit bus ⟨value, clock⟩, r)
  | 0x8A#8 => do
    let (bus, r) ← getBus r
    .ok (.rxEnd bus, r)
  | 0x8B#8 => do
    let (bus, r) ← getBus r
    .ok (.rxBad bus, r)
  | _ => .error (.reservedSelector sel)

/-- The step that stands at the front of the bytes, with the bytes after it. The families are told apart by the ranges
of SEL in R101 to R103; a selector no family lists is reserved (R107). -/
def decode : List Byte → Except DecodeError (Instr × List Byte)
  | [] => .error .noBytes
  | sel :: r =>
    if sel.toNat < 0x08 then decodeCodec sel r
    else if sel.toNat < 0x10 then decodeTransport sel r
    else if sel.toNat < 0x18 then decodeNode sel r
    else if sel.toNat < 0x20 then decodePoller sel r
    else if sel.toNat < 0x80 then decodeTransport sel r
    else decodeSeq sel r

/-- A 16-bit count, low byte first. -/
def putU16 (n : Nat) : List Byte := [BitVec.ofNat 8 (n % 256), BitVec.ofNat 8 (n / 256)]

/-- A `u32` operand, little-endian. -/
def putWord (w : Word) : List Byte :=
  [w.extractLsb' 0 8, w.extractLsb' 8 8, w.extractLsb' 16 8, w.extractLsb' 24 8]

/-- A `Bool` operand. -/
def putBool (b : Bool) : List Byte := [if b then 1 else 0]

/-- A `Time` operand, at most `fuel + 1` groups. -/
def putTimeGroups : Nat → Nat → List Byte
  | 0, t => [BitVec.ofNat 8 (t % 128)]
  | fuel + 1, t =>
    if t < 128 then [BitVec.ofNat 8 t] else BitVec.ofNat 8 (128 + t % 128) :: putTimeGroups fuel (t / 128)

/-- A `Time` operand. -/
def putTime (t : Nat) : List Byte := putTimeGroups t t

/-- An array of bytes. -/
def putBytes (bytes : List Byte) : List Byte := putU16 bytes.length ++ bytes

/-- An array of words. -/
def putWords (words : List Word) : List Byte := putU16 words.length ++ words.flatMap putWord

/-- A bus number. -/
def putBus (b : BusId) : List Byte := [BitVec.ofNat 8 b.val]

/-- A node of a bus. -/
def putNode : NodeId → List Byte
  | .main => [0]
  | .sub i => [BitVec.ofNat 8 (i.val + 1)]

/-- The operand `target`. -/
def putTarget : Target → List Byte
  | .main => [0]
  | .sub i => [1, i]

/-- A line. -/
def putLine : Line → List Byte
  | .a => [0]
  | .b => [1]

/-- A symbol. -/
def putSymbol : Symbol → List Byte
  | .start => [0]
  | .stop => [1]
  | .bad => [2]
  | .bit ⟨false, .a⟩ => [4]
  | .bit ⟨true, .a⟩ => [5]
  | .bit ⟨false, .b⟩ => [6]
  | .bit ⟨true, .b⟩ => [7]

/-- The selector of a step (R101 to R103). -/
def Instr.selector : Instr → Byte
  | .computeCrc _ _ => 0x00
  | .encode _ _ _ _ _ => 0x01
  | .validate _ _ => 0x02
  | .parse _ _ => 0x03
  | .getRecipientAddress _ _ => 0x04
  | .subPeripheralMask _ => 0x05
  | .subPeripheralIndex _ => 0x06
  | .write _ _ _ _ _ _ _ => 0x08
  | .getReadData _ => 0x09
  | .processEvents _ _ => 0x0A
  | .nodeHandleData _ _ _ _ _ => 0x10
  | .nodeTask _ _ _ => 0x11
  | .nodeSetConnected _ _ _ => 0x12
  | .nodeMainPeripheralDisconnected _ _ => 0x13
  | .nodeIsPresent _ _ => 0x14
  | .mainDispatch _ _ _ => 0x15
  | .pollerTick _ _ _ => 0x18
  | .pollerAttach _ _ => 0x19
  | .pollerDetach _ _ => 0x1A
  | .condDecode _ _ => 0x1B
  | .txComplete _ => 0x40
  | .rxComplete _ _ => 0x41
  | .crcClear => 0x80
  | .crcUpdate _ => 0x81
  | .txStart _ => 0x84
  | .txBit _ => 0x85
  | .txEnd _ => 0x86
  | .rxWaitStart _ _ => 0x88
  | .rxBit _ _ => 0x89
  | .rxEnd _ => 0x8A
  | .rxBad _ => 0x8B

/-- The operand bytes of a step, in the order of R101. -/
def Instr.operandBytes : Instr → List Byte
  | .computeCrc bytes n => putBytes bytes ++ putU16 n
  | .encode command snd rcp payload len => [command, snd, rcp] ++ putWords payload ++ [len]
  | .validate bytes n => putBytes bytes ++ putU16 n
  | .parse bytes n => putBytes bytes ++ putU16 n
  | .getRecipientAddress player target => player :: putTarget target
  | .subPeripheralMask addr => [addr]
  | .subPeripheralIndex addr => [addr]
  | .write bus command rcp payload len expect timeout =>
    putBus bus ++ [command, rcp] ++ putWords payload ++ [len] ++ putBool expect ++ putWord timeout
  | .getReadData bus => putBus bus
  | .processEvents bus t => putBus bus ++ putTime t
  | .nodeHandleData bus node len cmd payload => putBus bus ++ putNode node ++ [len, cmd] ++ putWords payload
  | .nodeTask bus node t => putBus bus ++ putNode node ++ putTime t
  | .nodeSetConnected bus node st => putBus bus ++ putNode node ++ putBool st
  | .nodeMainPeripheralDisconnected bus node => putBus bus ++ putNode node
  | .nodeIsPresent bus node => putBus bus ++ putNode node
  | .mainDispatch bus words length => putBus bus ++ putWords words ++ putU16 length
  | .pollerTick bus node t => putBus bus ++ putNode node ++ putTime t
  | .pollerAttach bus node => putBus bus ++ putNode node
  | .pollerDetach bus node => putBus bus ++ putNode node
  | .condDecode w0 w1 => putWord w0 ++ putWord w1
  | .txComplete bus => putBus bus
  | .rxComplete bus count => putBus bus ++ putU16 count
  | .crcClear => []
  | .crcUpdate byte => [byte]
  | .txStart bus => putBus bus
  | .txBit bus => putBus bus
  | .txEnd bus => putBus bus
  | .rxWaitStart bus symbol => putBus bus ++ putSymbol symbol
  | .rxBit bus b => putBus bus ++ putBool b.value ++ putLine b.clock
  | .rxEnd bus => putBus bus
  | .rxBad bus => putBus bus

/-- The bytes of a step: its selector, then its operands. -/
def encode (i : Instr) : List Byte := i.selector :: i.operandBytes

/-- How many zero bytes stand for the operands of a step given by its selector alone. With every operand byte zero no
step is longer (WRITE has eleven operand bytes then). -/
def zeroOperandBytes : Nat := 32

/-- The bytes of a table word: `nbits` bits, least significant byte first, then zeros for the operands. -/
def tableBytes (nbits w : Nat) : List Byte :=
  (List.range (nbits / 8)).map (fun i => BitVec.ofNat 8 (w / 256 ^ i)) ++ List.replicate zeroOperandBytes 0

/-- The step the decoder reads from a word of spec/opcode_table.json, every operand byte zero. -/
def decodeTableWord (nbits w : Nat) : Option Instr :=
  match decode (tableBytes nbits w) with
  | .ok (i, _) => some i
  | .error _ => none

end Sys2Proof
end

