-- ==== Sys2Proof/Machine/Fetch.lean ====
section
/-! DEFINITION. Which step comes next: the front entry of the schedule (spec/20_memory.md R70; log entry 6). -/

namespace Sys2Proof.Machine

/-- Bytes that are no step are refused (R12, R107). -/
def refusalOf : DecodeError → Refusal
  | .noBytes => .noBytes
  | .reservedSelector sel => .reservedSelector sel
  | .truncated => .truncatedOperands
  | .badOperand => .badOperand

/-- The step of a schedule entry; bytes after its last operand are not read. -/
def instrOf (code : List Byte) : Except Refusal Instr :=
  match decode code with
  | .ok (i, _) => .ok i
  | .error e => .error (refusalOf e)

/-- The entry leaves the schedule and the clock reaches its time; the clock never decreases (R302). -/
def State.takeEntry (s : State) (e : Pending) (rest : List Pending) : State :=
  { s with now := max s.now e.time, input := rest }

/-- A schedule with the step of a table word in front, due at once. -/
def withTableWord (input : List Pending) (nbits w : Nat) : List Pending :=
  { time := 0, code := tableBytes nbits w } :: input

end Sys2Proof.Machine
end

