-- ==== Sys2Proof/Machine/Step.lean ====
section
/-! DEFINITION. One step of the machine: the next entry of the schedule is fetched, decoded and run. -/

namespace Sys2Proof.Machine

/-- With nothing scheduled the block does nothing by itself (spec/70_reset_and_hazards.md R322; log entry 31). -/
def step (s : State) : Host.Outcome State Fault Refusal :=
  match s.input with
  | [] => .next s
  | e :: rest =>
    match instrOf e.code with
    | .error r => .refused r
    | .ok i => exec i (s.takeEntry e rest)

/-- The state whose very next step is the step of a word of spec/opcode_table.json, its operand bytes zero. -/
def State.withFetchWord (s : State) (nbits w : Nat) : State := { s with input := withTableWord s.input nbits w }

end Sys2Proof.Machine
end

