-- ==== Sys2Proof/Safety.lean ====
section
/-! DEFINITION. The terms claims are stated in: running several steps, the bus a step acts on, which steps the host may invoke itself,
and the invariants of the block (spec/10_state.md, spec/42_bus_transmitter.md R168, spec/45_peripheral_node.md R248). -/

namespace Sys2Proof.Machine

/-- Steps taken one after another, stopping at the first that does not complete. -/
def execAll : List Instr → State → Host.Outcome State Fault Refusal
  | [], s => .next s
  | i :: rest, s =>
    match exec i s with
    | .next s' => execAll rest s'
    | .fault f => .fault f
    | .refused r => .refused r

/-- The bus a step acts on; the codec, address, COND.DECODE and CRC steps act on none (R101 to R103). -/
def busOf : Instr → Option BusId
  | .computeCrc _ _ => none
  | .encode _ _ _ _ _ => none
  | .validate _ _ => none
  | .parse _ _ => none
  | .getRecipientAddress _ _ => none
  | .subPeripheralMask _ => none
  | .subPeripheralIndex _ => none
  | .write bus _ _ _ _ _ _ => some bus
  | .getReadData bus => some bus
  | .processEvents bus _ => some bus
  | .nodeHandleData bus _ _ _ _ => some bus
  | .nodeTask bus _ _ => some bus
  | .nodeSetConnected bus _ _ => some bus
  | .nodeMainPeripheralDisconnected bus _ => some bus
  | .nodeIsPresent bus _ => some bus
  | .mainDispatch bus _ _ => some bus
  | .pollerTick bus _ _ => some bus
  | .pollerAttach bus _ => some bus
  | .pollerDetach bus _ => some bus
  | .condDecode _ _ => none
  | .txComplete bus => some bus
  | .rxComplete bus _ => some bus
  | .crcClear => none
  | .crcUpdate _ => none
  | .txStart bus => some bus
  | .txBit bus => some bus
  | .txEnd bus => some bus
  | .rxWaitStart bus _ => some bus
  | .rxBit bus _ => some bus
  | .rxEnd bus => some bus
  | .rxBad bus => some bus

/-- The steps of the interrupt context and of the engines (R300): the two events and the TX and RX micro-steps. -/
def engineStep : Instr → Bool
  | .txComplete _ | .rxComplete _ _ | .txStart _ | .txBit _ | .txEnd _ | .rxWaitStart _ _ | .rxBit _ _ | .rxEnd _
  | .rxBad _ => true
  | _ => false

/-- A node that exists and is present. -/
def nodePresent (s : State) (b : BusId) (id : NodeId) : Bool :=
  match s.buses[b.val]? with
  | some bus => (bus.node id).present
  | none => false

/-- The direct calls that break R248. Two are of internal operations, with which R333 leaves R248 to the host: NODE.HANDLEDATA
of a device-information response on a sub-node whose main node is absent, and POLLER.ATTACH on an absent node. The third,
NODE.SETCONNECTED(true) on a sub-node whose main node is absent, R335 allows at any time, and that it then breaks R248 is
the model's choice (log entry 40). -/
def breaksPresence (s : State) : Instr → Bool
  | .nodeHandleData b (.sub _) _ cmd _ =>
    decide (cmd = s.cfg.cmdDeviceInfoResponse) && !nodePresent s b .main
  | .pollerAttach b id => !nodePresent s b id
  | .nodeSetConnected b (.sub _) state => state && !nodePresent s b .main
  | _ => false

/-- Every index below `n` has been written. -/
def Written {α : Type} (m : List (Nat × α)) (n : Nat) : Prop := ∀ a, a < n → (readCell m a).isSome = true

/-- The buffers of a transport: their canonical form and bounds (R60), everything inside their lengths written (R25 to
R27), the running CRC the fold of the stored bytes (R188), at most one busy flag (R28), a new snapshot never empty
(R27). -/
structure TransportInv (t : Transport) : Prop where
  wb_wf : cellsWf bufBytes t.wb = true
  rb_wf : cellsWf bufBytes t.rb = true
  lv_wf : cellsWf lvWords t.lv = true
  wbLen_le : t.wbLen ≤ bufBytes
  rbCount_le : t.rbCount ≤ bufBytes
  lvLen_le : t.lvLen ≤ lvWords
  wb_written : Written t.wb t.wbLen
  rb_written : Written t.rb t.rbCount
  lv_written : Written t.lv t.lvLen
  running_crc : ∀ bytes, readCells t.rb 0 t.rbCount = .ok bytes → t.rxCrc = bytes.foldl (· ^^^ ·) 0
  one_busy : ¬ (t.writeBusy = true ∧ t.readBusy = true)
  new_frame : t.lvNew = true → 0 < t.lvLen

/-- A poller slot: the miss counter never rests at the threshold (R39) and the Condition has its button flags (R41). -/
structure PollerInv (p : Params) (q : Poller) : Prop where
  noData_lt : q.noData < disconnectThreshold
  buttons_length : q.cond.buttons.length = numButtons p.condLayout

/-- One bus: its transport, and for each of its nodes the poller and the constant address (R32). -/
structure BusInv (p : Params) (b : Nat) (bus : Bus) : Prop where
  transport : TransportInv bus.t
  host_addr : bus.t.hostAddr = hostAddress (playerOfBus p b)
  poller : ∀ id, PollerInv p (bus.node id).poller
  addr : ∀ id, (bus.node id).addr = nodeAddress (playerOfBus p b) id

/-- The invariant every step keeps: as many buses as the parameters say (R20), each well formed. -/
structure StateInv (s : State) : Prop where
  bus_count : s.buses.length = s.cfg.extraBuses.val + 1
  bus : ∀ (b : Nat) (bus : Bus), s.buses[b]? = some bus → BusInv s.cfg b bus

/-- The engines and the busy flags (R168, R175, R200): an engine runs exactly while its flag is set, the lines are
driven only while the transmitter runs, and its bit index stays in the frame (R30). -/
structure EngineInv (t : Transport) : Prop where
  one_busy : ¬ (t.writeBusy = true ∧ t.readBusy = true)
  tx_busy : t.txPhase ≠ .idle ↔ t.writeBusy = true
  rx_busy : t.rxPhase ≠ .off ↔ t.readBusy = true
  released : t.txPhase = .idle → t.driveA = .release ∧ t.driveB = .release
  frame_size : t.writeBusy = true → 5 ≤ t.wbLen
  at_start : t.txPhase = .start → t.txBit = 0
  in_data : t.txPhase = .data → t.txBit < 8 * t.wbLen
  at_stop : t.txPhase = .stop → t.txBit = 8 * t.wbLen

/-- `EngineInv` on every bus. -/
def EnginesInv (s : State) : Prop := ∀ (b : Nat) (bus : Bus), s.buses[b]? = some bus → EngineInv bus.t

/-- R248: an attached poller's node is present, a present sub-node's main node is present. -/
structure PresenceInv (bus : Bus) : Prop where
  attached_present : ∀ id, (bus.node id).poller.attached = true → (bus.node id).present = true
  sub_main : ∀ i, (bus.node (.sub i)).present = true → bus.main.present = true

/-- `PresenceInv` on every bus. -/
def PresencesInv (s : State) : Prop := ∀ (b : Nat) (bus : Bus), s.buses[b]? = some bus → PresenceInv bus

end Sys2Proof.Machine
end

