-- ==== Sys2Proof/Certificates/Slice0/Obligations.lean ====
section
/-! DEFINITION. The statements for the provers. Each docstring names the rule of spec/ it formalises; bytes are read through `readCell`,
nodes through `Bus.node`. -/

open Sys2Proof Sys2Proof.Machine

/-! ## Selectors, decoding, the step -/

/-- Decoding the bytes of a well-formed step gives that step and leaves the bytes after it (30_encoding.md section 6; the
operand layout is the model's, log entry 7). -/
def Obligations.DecodeOfEncodeIsTheStep : Prop :=
  ∀ (i : Instr) (rest : List Byte), i.wf = true → decode (encode i ++ rest) = .ok (i, rest)

/-- Some words written out by hand decode to the steps they stand for (R101 to R103; operands after log entry 7). -/
def Obligations.WrittenOutWordsDecode : Prop :=
  decode [0x08, 0x00, 0x09, 0x20, 0x01, 0x00, 0x01, 0x00, 0x00, 0x00, 0x01, 0x01, 0xE8, 0x03, 0x00, 0x00] =
      .ok (.write 0 0x09 0x20 [0x00000001] 1 true 1000, []) ∧
    decode [0x04, 0x01, 0x01, 0x02] = .ok (.getRecipientAddress 1 (.sub 2), []) ∧
    decode [0x18, 0x00, 0x03, 0xE8, 0x07] = .ok (.pollerTick 0 (.sub 2) 1000, []) ∧
    decode [0x41, 0x02, 0x0D, 0x00] = .ok (.rxComplete 2 13, []) ∧
    decode [0x85, 0x01] = .ok (.txBit 1, []) ∧
    decode [0x89, 0x00, 0x01, 0x01] = .ok (.rxBit 0 ⟨true, .b⟩, [])

/-- R107: a selector that R101 to R103 do not list selects no step and is refused by its name. -/
def Obligations.ReservedSelectorIsRefused : Prop :=
  ∀ (s : State) (time : Nat) (sel : Byte) (operands : List Byte) (rest : List Pending),
    s.input = { time := time, code := sel :: operands } :: rest →
    sel ∉ ([0x00, 0x01, 0x02, 0x03, 0x04, 0x05, 0x06, 0x08, 0x09, 0x0A, 0x10, 0x11, 0x12, 0x13, 0x14, 0x15, 0x18, 0x19,
      0x1A, 0x1B, 0x40, 0x41, 0x80, 0x81, 0x84, 0x85, 0x86, 0x88, 0x89, 0x8A, 0x8B] : List Byte) →
    step s = .refused (.reservedSelector sel)

/-- A step of the machine runs the decoded step of the front schedule entry, the entry gone and the clock at its time or
later (log entry 6). -/
def Obligations.StepRunsTheDecodedStep : Prop :=
  ∀ (s : State) (e : Pending) (rest : List Pending) (i : Instr) (tail : List Byte),
    s.input = e :: rest → decode e.code = .ok (i, tail) →
    step s = exec i { s with now := max s.now e.time, input := rest }

/-- R44: every reset value the spec gives, on every bus there is; each line is high unless the environment drives it. -/
def Obligations.ResetValuesOfTheSpec : Prop :=
  ∀ (p : Params), (State.resetWith p).buses.length = p.extraBuses.val + 1 ∧
    ∀ (b : Nat) (bus : Bus), (State.resetWith p).buses[b]? = some bus →
      bus.t.hostAddr = (playerOfBus p b).setWidth 8 <<< 6 ∧ bus.t.wbLen = 0 ∧ bus.t.rbCount = 0 ∧ bus.t.lvLen = 0 ∧
      bus.t.lvNew = false ∧ bus.t.writeBusy = false ∧ bus.t.readBusy = false ∧ bus.t.expectResponse = false ∧
      bus.t.readTimeout = 0 ∧ bus.t.txPhase = .idle ∧ bus.t.txBit = 0 ∧ bus.t.driveA = .release ∧
      bus.t.driveB = .release ∧ bus.t.rxPhase = .off ∧ bus.t.rxShift = 0 ∧ bus.t.rxBitCnt = 0 ∧ bus.t.rxCrc = 0 ∧
      bus.t.rxOverflow = false ∧ bus.t.rxBad = false ∧
      (∀ (l : Line) (i : Nat), (∀ p ∈ bus.env, p.line = l → ¬ (p.start ≤ i ∧ i ≤ p.stop)) → bus.lineHigh l i = true) ∧
      bus.main.addr = ((playerOfBus p b).setWidth 8 <<< 6) ||| 0x20 ∧
      (∀ i : Fin 5, (bus.node (.sub i)).addr = ((playerOfBus p b).setWidth 8 <<< 6) ||| (1 <<< i.val)) ∧
      ∀ id, (bus.node id).present = false ∧ (bus.node id).nextProbe = 0 ∧ (bus.node id).poller.attached = false ∧
        (bus.node id).poller.cond =
          { buttons := List.replicate p.condLayout.buttonBits.length false
            padUp := false, padDown := false, padLeft := false, padRight := false
            triggerLeft := 0, triggerRight := 0, thumbXLeft := 0, thumbYLeft := 0, thumbXRight := 0
            thumbYRight := 0 } ∧
        (bus.node id).poller.waiting = false ∧ (bus.node id).poller.noData = 0 ∧
        (bus.node id).poller.nextCheck = 0 ∧ (bus.node id).poller.newData = false

/-- R336: an operand that breaks a precondition makes the step a refused one. -/
def Obligations.OperandPreconditionsAreRefused : Prop :=
  ∀ (s : State) (b : BusId) (bus : Bus), s.buses[b.val]? = some bus →
    (∀ (command a recipient len : Byte) (payload : List Word) (expect : Bool) (timeout : Word),
      payload.length < len.toNat →
      (∃ r, exec (.write b command recipient payload len expect timeout) s = .refused r) ∧
      ∃ r, exec (.encode command a recipient payload len) s = .refused r) ∧
    (∀ (bytes : List Byte) (n : Nat), bytes.length < n ∨ 1029 < n →
      (∃ r, exec (.computeCrc bytes n) s = .refused r) ∧ (∃ r, exec (.validate bytes n) s = .refused r) ∧
      ∃ r, exec (.parse bytes n) s = .refused r) ∧
    (∀ (player : Byte) (target : Target), 3 < player.toNat →
      ∃ r, exec (.getRecipientAddress player target) s = .refused r) ∧
    (∀ player i : Byte, 4 < i.toNat → ∃ r, exec (.getRecipientAddress player (.sub i)) s = .refused r) ∧
    ∀ addr : Byte, (∀ i : Fin 5, addr &&& 0x1F ≠ 1 <<< i.val) → ∃ r, exec (.subPeripheralIndex addr) s = .refused r

/-- The word arrays of the node layer: NODE.HANDLEDATA and MAIN.DISPATCH on fewer words than they are told of are
refused (no rule of 45_peripheral_node.md states the check; the model's choice, log entries 32 and 35). -/
def Obligations.ShortWordArraysAreRefused : Prop :=
  ∀ (s : State) (b : BusId) (bus : Bus), s.buses[b.val]? = some bus →
    (∀ (id : NodeId) (len cmd : Byte) (payload : List Word), payload.length < len.toNat →
      exec (.nodeHandleData b id len cmd payload) s = .refused .arrayTooShort) ∧
    (∀ (words : List Word) (length : Nat), words.length < length →
      exec (.mainDispatch b words length) s = .refused .arrayTooShort) ∧
    ∀ (cmd recipient sender len : Byte) (payload : List Word) (length : Nat),
      0 < length → length ≤ payload.length + 1 → payload.length < len.toNat →
      sender.extractLsb' 6 2 = playerOfBus s.cfg b.val →
      (sender.getLsbD 5 = true ∨ (bus.main.present = true ∧ ∃ i : Fin 5, sender &&& 0x1F = 1 <<< i.val)) →
      exec (.mainDispatch b (headerWord s.cfg.hdrLayout cmd recipient sender len :: payload) length) s =
        .refused .arrayTooShort

/-! ## The frame codec -/

/-- R123: COMPUTECRC is the exclusive or of the first `n` bytes, and any permutation of them has the same one. -/
def Obligations.ComputeCrcIsTheXorOfTheBytes : Prop :=
  ∀ (bytes : List Byte) (n : Nat) (s : State), n ≤ 1029 → n ≤ bytes.length →
    (Instr.computeCrc bytes n).selector = 0x00 ∧
    exec (.computeCrc bytes n) s = .next { s with ret := .crc ((bytes.take n).foldl (· ^^^ ·) 0) } ∧
    ∀ others : List Byte, others.Perm (bytes.take n) →
      exec (.computeCrc others n) s = exec (.computeCrc bytes n) s

/-- R124: the wire bytes of ENCODE, for both header layouts, and its refusal of a payload shorter than `len`. -/
def Obligations.EncodeGivesTheWireBytes : Prop :=
  ∀ (command sender recipient : Byte) (payload : List Word) (len : Byte) (s : State),
    (Instr.encode command sender recipient payload len).selector = 0x01 ∧
    (payload.length < len.toNat →
      exec (.encode command sender recipient payload len) s = .refused .arrayTooShort) ∧
    (len.toNat ≤ payload.length →
      ∃ wire : List Byte,
        exec (.encode command sender recipient payload len) s =
          .next { s with ret := .wire wire (4 * (1 + len.toNat) + 1) } ∧
        wire.length = 4 * (1 + len.toNat) + 1 ∧
        (∀ (k j : Nat) (w : Word), k ≤ len.toNat → j < 4 →
          ((match s.cfg.hdrLayout with
            | .cmdFirst => command ++ recipient ++ sender ++ len
            | .lenFirst => len ++ sender ++ recipient ++ command) :: payload)[k]? = some w →
          wire[4 * k + j]? = some (w.extractLsb' (24 - 8 * j) 8)) ∧
        wire[4 * (1 + len.toNat)]? = some ((wire.take (4 * (1 + len.toNat))).foldl (· ^^^ ·) 0))

/-- VALIDATE compares the last byte with the exclusive or of the others, which is the same as all of them having exclusive
or 0, and one changed byte makes a valid string invalid (40_frame_codec.md, VALIDATE; the equivalence and the one changed
byte are inferences the spec marks as derived). -/
def Obligations.ValidateComparesTheLastByte : Prop :=
  ∀ (bytes : List Byte) (n : Nat) (s : State), n ≤ 1029 → n ≤ bytes.length →
    (Instr.validate bytes n).selector = 0x02 ∧
    ∃ v : Bool, exec (.validate bytes n) s = .next { s with ret := .bool v } ∧
      (v = true ↔ ∃ m, n = m + 1 ∧ bytes[m]? = some ((bytes.take m).foldl (· ^^^ ·) 0)) ∧
      (v = true ↔ 0 < n ∧ (bytes.take n).foldl (· ^^^ ·) 0 = 0) ∧
      (v = true → ∀ (i : Nat) (x : Byte), i < n → bytes[i]? ≠ some x →
        exec (.validate (bytes.set i x) n) s = .next { s with ret := .bool false })

/-- R128: when PARSE is `ok`, and the fields, words and CRC byte it then gives. -/
def Obligations.ParseReadsTheFrame : Prop :=
  ∀ (bytes : List Byte) (n : Nat) (s : State), n ≤ 1029 → n ≤ bytes.length →
    (Instr.parse bytes n).selector = 0x03 ∧
    ∃ r : Option ParsedFrame, exec (.parse bytes n) s = .next { s with ret := .parsed r } ∧
      (r.isSome = true ↔ 5 ≤ n ∧ (n - 1) % 4 = 0 ∧
        ∃ l : Byte, (match s.cfg.hdrLayout with | .cmdFirst => bytes[3]? | .lenFirst => bytes[0]?) = some l ∧
          l.toNat = (n - 5) / 4) ∧
      ∀ f : ParsedFrame, r = some f →
        (match s.cfg.hdrLayout with
          | .cmdFirst => [bytes[0]?, bytes[1]?, bytes[2]?, bytes[3]?]
          | .lenFirst => [bytes[3]?, bytes[2]?, bytes[1]?, bytes[0]?]) =
          [some f.command, some f.recipient, some f.sender, some f.length] ∧
        f.words.length = 1 + f.length.toNat ∧
        (∀ (k : Nat) (b0 b1 b2 b3 : Byte), k ≤ f.length.toNat → bytes[4 * k]? = some b0 →
          bytes[4 * k + 1]? = some b1 → bytes[4 * k + 2]? = some b2 → bytes[4 * k + 3]? = some b3 →
          f.words[k]? = some (b0 ++ b1 ++ b2 ++ b3)) ∧
        bytes[n - 1]? = some f.crcByte

/-- R127: an encoded frame validates, and with any single byte changed it does not. -/
def Obligations.EncodedFrameValidates : Prop :=
  ∀ (command sender recipient : Byte) (payload : List Word) (len : Byte) (s : State), len.toNat ≤ payload.length →
    ∃ (wire : List Byte) (n : Nat),
      exec (.encode command sender recipient payload len) s = .next { s with ret := .wire wire n } ∧
      exec (.validate wire n) s = .next { s with ret := .bool true } ∧
      ∀ (i : Nat) (x : Byte), i < n → wire[i]? ≠ some x →
        exec (.validate (wire.set i x) n) s = .next { s with ret := .bool false }

/-- PARSE inverts ENCODE (40_frame_codec.md, the inference "PARSE inverts ENCODE", which the spec marks as derived). -/
def Obligations.ParseInvertsEncode : Prop :=
  ∀ (command sender recipient : Byte) (payload : List Word) (len : Byte) (s : State), len.toNat ≤ payload.length →
    ∃ (wire : List Byte) (n : Nat) (f : ParsedFrame),
      exec (.encode command sender recipient payload len) s = .next { s with ret := .wire wire n } ∧
      exec (.parse wire n) s = .next { s with ret := .parsed (some f) } ∧
      f.command = command ∧ f.recipient = recipient ∧ f.sender = sender ∧ f.length = len ∧
      ∀ i, i < len.toNat → f.words[1 + i]? = payload[i]?

/-- CRC.CLEAR and CRC.UPDATE write the CRC register and nothing else; two updates commute and the same one twice undoes
itself (40_frame_codec.md section 1; that the register is the machine's own is log entry 14). -/
def Obligations.CrcStepsWriteTheCrcRegister : Prop :=
  ∀ (s : State) (x y : Byte),
    Instr.crcClear.selector = 0x80 ∧ (Instr.crcUpdate x).selector = 0x81 ∧
    exec .crcClear s = .next { s with crc := 0x00 } ∧
    exec (.crcUpdate x) s = .next { s with crc := s.crc ^^^ x } ∧
    execAll [.crcUpdate x, .crcUpdate x] s = .next s ∧
    execAll [.crcUpdate x, .crcUpdate y] s = execAll [.crcUpdate y, .crcUpdate x] s

/-! ## The address codec -/

/-- R140: the address of a main or sub-peripheral, and the operands that are refused. -/
def Obligations.RecipientAddressIsComposed : Prop :=
  ∀ (player i : Byte) (s : State),
    (∀ target, (Instr.getRecipientAddress player target).selector = 0x04) ∧
    (player.toNat ≤ 3 →
      exec (.getRecipientAddress player .main) s = .next { s with ret := .addr ((player <<< 6) ||| 0x20) }) ∧
    (player.toNat ≤ 3 → i.toNat ≤ 4 →
      exec (.getRecipientAddress player (.sub i)) s =
        .next { s with ret := .addr ((player <<< 6) ||| (1 <<< i.toNat)) }) ∧
    (3 < player.toNat → ∀ target, exec (.getRecipientAddress player target) s = .refused .badPlayer) ∧
    (player.toNat ≤ 3 → 4 < i.toNat → exec (.getRecipientAddress player (.sub i)) s = .refused .badSubIndex)

/-- R142 and R144: the mask is the low five bits, whatever the other bits are; a one-hot mask has an index, and every
other mask is refused. -/
def Obligations.MaskAndIndexOfAnAddress : Prop :=
  ∀ (addr : Byte) (s : State),
    (Instr.subPeripheralMask addr).selector = 0x05 ∧ (Instr.subPeripheralIndex addr).selector = 0x06 ∧
    exec (.subPeripheralMask addr) s = .next { s with ret := .mask (addr &&& 0x1F) } ∧
    (∀ i : Fin 5, addr &&& 0x1F = 1 <<< i.val →
      exec (.subPeripheralIndex addr) s = .next { s with ret := .index i.val }) ∧
    ((∀ i : Fin 5, addr &&& 0x1F ≠ 1 <<< i.val) → exec (.subPeripheralIndex addr) s = .refused .notOneHot)

/-- Composing an address and taking it apart again (41_address_codec.md, the inference "Round trip", which the spec marks as
derived). -/
def Obligations.AddressRoundTrip : Prop :=
  ∀ (p : BitVec 2) (i : Fin 5) (s : State),
    (∃ a : Byte,
      exec (.getRecipientAddress (p.setWidth 8) (.sub (BitVec.ofNat 8 i.val))) s = .next { s with ret := .addr a } ∧
      playerOf a = p ∧ exec (.subPeripheralMask a) s = .next { s with ret := .mask (1 <<< i.val) } ∧
      exec (.subPeripheralIndex a) s = .next { s with ret := .index i.val } ∧ isSub a = true ∧ isMain a = false) ∧
    ∃ a : Byte,
      exec (.getRecipientAddress (p.setWidth 8) .main) s = .next { s with ret := .addr a } ∧
      playerOf a = p ∧ isMain a = true ∧ exec (.subPeripheralMask a) s = .next { s with ret := .mask 0 }

/-! ## The lines and the transport -/

/-- R156 and the answer of the open-line check: a line is high exactly when the block and the environment release it, and
the lines are idle during a window exactly when both are high at every instant of it (instants are whole microseconds,
log entry 9). -/
def Obligations.LinesIdleMeansBothHighThroughout : Prop :=
  ∀ bus : Bus,
    (∀ (l : Line) (i : Nat), bus.lineHigh l i = true ↔
      bus.t.drive l = .release ∧ ∀ p ∈ bus.env, p.line = l → ¬ (p.start ≤ i ∧ i ≤ p.stop)) ∧
    ∀ t0 t1 : Nat, t0 ≤ t1 →
      (bus.linesIdleDuring t0 t1 = true ↔
        ∀ i, t0 ≤ i → i ≤ t1 → bus.lineHigh .a i = true ∧ bus.lineHigh .b i = true)

/-- A WRITE on a free bus with idle lines starts a transmission; a busy bus and a line that is not idle make it answer
false; a payload shorter than `len` is refused (44_bus_transport.md, WRITE). The bus's earlier open-line window is over, as
it always is there. The spec ends the step at the end of its window; that the clock instead stays where it is and the
field `windowEnd` keeps that instant is the model's choice (log entry 9; after LINE_NOT_IDLE log entry 10), and so is that
the elements of the write buffer beyond the frame are as before (log entry 42). -/
def Obligations.WriteStartsATransmission : Prop :=
  ∀ (s : State) (b : BusId) (bus : Bus) (command recipient : Byte) (payload : List Word) (len : Byte) (expect : Bool)
    (timeout : Word), s.buses[b.val]? = some bus → bus.windowEnd ≤ s.now →
    (Instr.write b command recipient payload len expect timeout).selector = 0x08 ∧
    (payload.length < len.toNat →
      exec (.write b command recipient payload len expect timeout) s = .refused .arrayTooShort) ∧
    (len.toNat ≤ payload.length → (bus.t.writeBusy = true ∨ bus.t.readBusy = true) →
      exec (.write b command recipient payload len expect timeout) s =
        .next { s with
          buses := s.buses.set b.val { bus with raised := bus.raised ++ [.busBusy] }
          ret := .bool false }) ∧
    (len.toNat ≤ payload.length → bus.t.writeBusy = false → bus.t.readBusy = false →
      (¬ ∀ i, s.now ≤ i → i ≤ s.now + s.cfg.openLineCheckUs →
        bus.lineHigh .a i = true ∧ bus.lineHigh .b i = true) →
      exec (.write b command recipient payload len expect timeout) s =
        .next { s with
          buses := s.buses.set b.val
            { bus with raised := bus.raised ++ [.lineNotIdle], windowEnd := s.now + s.cfg.openLineCheckUs }
          ret := .bool false }) ∧
    (len.toNat ≤ payload.length → bus.t.writeBusy = false → bus.t.readBusy = false →
      (∀ i, s.now ≤ i → i ≤ s.now + s.cfg.openLineCheckUs →
        bus.lineHigh .a i = true ∧ bus.lineHigh .b i = true) →
      ∃ (wire : List Byte) (wb : ByteMemory),
        exec (.encode command bus.t.hostAddr recipient payload len) s =
          .next { s with ret := .wire wire (4 * (1 + len.toNat) + 1) } ∧
        (∀ a, readCell wb a = if a < 4 * (1 + len.toNat) + 1 then wire[a]? else readCell bus.t.wb a) ∧
        exec (.write b command recipient payload len expect timeout) s =
          .next { s with
            buses := s.buses.set b.val
              { bus with
                t :=
                  { bus.t with
                    wb := wb
                    wbLen := 4 * (1 + len.toNat) + 1
                    expectResponse := expect
                    readTimeout := timeout
                    writeBusy := true
                    deadline := s.now + s.cfg.openLineCheckUs + s.cfg.writeTimeoutUs.getD len.toNat 0
                    txPhase := .start
                    txBit := 0 }
                windowEnd := s.now + s.cfg.openLineCheckUs }
            ret := .bool true })

/-- R205: a WRITE on a busy bus always answers false, and a WRITE that answers false leaves the transport, the nodes and
the wire of its bus as they were. -/
def Obligations.FailedWriteLeavesTheTransport : Prop :=
  ∀ (s : State) (b : BusId) (bus : Bus) (command recipient : Byte) (payload : List Word) (len : Byte) (expect : Bool)
    (timeout : Word), s.buses[b.val]? = some bus → len.toNat ≤ payload.length →
    ∃ (t : State) (bus' : Bus), exec (.write b command recipient payload len expect timeout) s = .next t ∧
      t.buses[b.val]? = some bus' ∧
      (bus.t.writeBusy = true ∨ bus.t.readBusy = true → t.ret = .bool false) ∧
      (t.ret = .bool false → bus'.t = bus.t ∧ bus'.main = bus.main ∧ bus'.subs = bus.subs ∧ bus'.wireTx = bus.wireTx)

/-- R207: GETREADDATA answers the snapshot and its flag and clears the flag; called twice it answers the same words with
`isNew` false the second time. -/
def Obligations.GetReadDataAnswersTheSnapshot : Prop :=
  ∀ (s : State) (b : BusId) (bus : Bus) (words : List Word), s.buses[b.val]? = some bus →
    words.length = bus.t.lvLen → (∀ i, i < bus.t.lvLen → readCell bus.t.lv i = words[i]?) →
    (Instr.getReadData b).selector = 0x09 ∧
    exec (.getReadData b) s =
      .next { s with
        buses := s.buses.set b.val { bus with t := { bus.t with lvNew := false } }
        ret := .readData words bus.t.lvLen bus.t.lvNew } ∧
    execAll [.getReadData b, .getReadData b] s =
      .next { s with
        buses := s.buses.set b.val { bus with t := { bus.t with lvNew := false } }
        ret := .readData words bus.t.lvLen false }

/-- R208: PROCESSEVENTS times out the phase in progress when `currentTime` has reached the deadline, and does nothing
otherwise. -/
def Obligations.ProcessEventsEnforcesTheDeadline : Prop :=
  ∀ (s : State) (b : BusId) (bus : Bus) (currentTime : Nat), s.buses[b.val]? = some bus →
    (Instr.processEvents b currentTime).selector = 0x0A ∧
    (bus.t.writeBusy = true → bus.t.deadline ≤ currentTime →
      exec (.processEvents b currentTime) s =
        .next { s with
          buses := s.buses.set b.val
            { bus with
              t :=
                { bus.t with
                  txPhase := .idle, driveA := .release, driveB := .release
                  writeBusy := false, expectResponse := false }
              raised := bus.raised ++ [.writeTimeout] }
          ret := .none }) ∧
    (bus.t.writeBusy = false → bus.t.readBusy = true → bus.t.deadline ≤ currentTime →
      exec (.processEvents b currentTime) s =
        .next { s with
          buses := s.buses.set b.val
            { bus with
              t := { bus.t with rxPhase := .off, readBusy := false }
              raised := bus.raised ++ [.readTimeout] }
          ret := .none }) ∧
    ((currentTime < bus.t.deadline ∨ (bus.t.writeBusy = false ∧ bus.t.readBusy = false)) →
      exec (.processEvents b currentTime) s = .next { s with ret := .none })

/-- R210: TXCOMPLETE, where TX.END raises it (the engine at rest), ends the write phase and, when a response is expected,
arms reception in the same step; its assert. While the engine runs: `StepsThatAreNotEnabled`. -/
def Obligations.TxCompleteEndsTheWritePhase : Prop :=
  ∀ (s : State) (b : BusId) (bus : Bus), s.buses[b.val]? = some bus → bus.windowEnd ≤ s.now →
    (Instr.txComplete b).selector = 0x40 ∧
    (bus.t.writeBusy = false → exec (.txComplete b) s = .refused .notWriteBusy) ∧
    (bus.t.writeBusy = true → bus.t.txPhase = .idle → bus.t.expectResponse = false →
      exec (.txComplete b) s =
        .next { s with buses := s.buses.set b.val { bus with t := { bus.t with writeBusy := false } } }) ∧
    (bus.t.writeBusy = true → bus.t.txPhase = .idle → bus.t.expectResponse = true →
      exec (.txComplete b) s =
        .next { s with
          buses := s.buses.set b.val
            { bus with
              t :=
                { bus.t with
                  writeBusy := false, readBusy := true
                  rbCount := 0, rxBitCnt := 0, rxShift := 0, rxCrc := 0, rxOverflow := false, rxBad := false
                  rxPhase := .waitStart
                  deadline := s.now + bus.t.readTimeout.toNat } } })

/-- RXCOMPLETE, where RX.END raises it (the engine off, its operand `T.rbCount`), ends the read phase; it publishes a
reception of the right size that VALIDATE and PARSE accept and discards every other, under its condition name; its assert
(44_bus_transport.md, RXCOMPLETE; 60_exceptions.md, priority). That the elements of the snapshot beyond the published
length are as before is the model's choice (log entry 42). Elsewhere: `StepsThatAreNotEnabled`. -/
def Obligations.RxCompletePublishesOrDiscards : Prop :=
  ∀ (s : State) (b : BusId) (bus : Bus) (count : Nat), s.buses[b.val]? = some bus →
    (Instr.rxComplete b count).selector = 0x41 ∧
    (bus.t.readBusy = false → exec (.rxComplete b count) s = .refused .notReadBusy) ∧
    (bus.t.readBusy = true → bus.t.rxPhase = .off → count = bus.t.rbCount →
      (bus.t.rxBad = true ∨ bus.t.rxOverflow = true ∨ count < 5 ∨ (count - 1) % 4 ≠ 0) →
      exec (.rxComplete b count) s =
        .next { s with
          buses := s.buses.set b.val
            { bus with t := { bus.t with readBusy := false }, raised := bus.raised ++ [.malformed] } }) ∧
    (bus.t.readBusy = true → bus.t.rxPhase = .off → count = bus.t.rbCount → bus.t.rxBad = false →
      bus.t.rxOverflow = false → 5 ≤ count → (count - 1) % 4 = 0 → count ≤ 1029 →
      ∀ bytes : List Byte, bytes.length = count → (∀ i, i < count → readCell bus.t.rb i = bytes[i]?) →
      ∃ (valid : Bool) (r : Option ParsedFrame),
        exec (.validate bytes count) s = .next { s with ret := .bool valid } ∧
        exec (.parse bytes count) s = .next { s with ret := .parsed r } ∧
        (valid = false →
          exec (.rxComplete b count) s =
            .next { s with
              buses := s.buses.set b.val
                { bus with t := { bus.t with readBusy := false }, raised := bus.raised ++ [.crcMismatch] } }) ∧
        (valid = true → r = none →
          exec (.rxComplete b count) s =
            .next { s with
              buses := s.buses.set b.val
                { bus with t := { bus.t with readBusy := false }, raised := bus.raised ++ [.malformed] } }) ∧
        ∀ f : ParsedFrame, valid = true → r = some f →
          ∃ lv : WordMemory,
            (∀ a, readCell lv a = if a ≤ f.length.toNat then f.words[a]? else readCell bus.t.lv a) ∧
            exec (.rxComplete b count) s =
              .next { s with
                buses := s.buses.set b.val
                  { bus with
                    t :=
                      { bus.t with
                        readBusy := false, lv := lv, lvLen := 1 + f.length.toNat, lvNew := true } } })

/-! ## The transmit engine -/

/-- TX.START emits START, leaves the lines as START_SEQ ends, and enters DATA (42_bus_transmitter.md, TX.START); that an
empty START_SEQ leaves the drives as they are is the model's choice (log entry 17). -/
def Obligations.TxStartEmitsStart : Prop :=
  ∀ (s : State) (b : BusId) (bus : Bus), s.buses[b.val]? = some bus →
    (Instr.txStart b).selector = 0x84 ∧
    (bus.t.txPhase = .start → s.cfg.startSeq = [] →
      exec (.txStart b) s =
        .next { s with
          buses := s.buses.set b.val
            { bus with t := { bus.t with txPhase := .data }, wireTx := bus.wireTx ++ [.start] } }) ∧
    (bus.t.txPhase = .start → ∀ seg : Segment, s.cfg.startSeq.getLast? = some seg →
      exec (.txStart b) s =
        .next { s with
          buses := s.buses.set b.val
            { bus with
              t := { bus.t with txPhase := .data, driveA := seg.lineA, driveB := seg.lineB }
              wireTx := bus.wireTx ++ [.start] } })

/-- TX.BIT emits frame bit `k`, most significant bit of each byte first, in line phase `k mod 2`, drives the shape
BIT_WAVE(`k mod 2`, bit), and enters END after the last bit (42_bus_transmitter.md, TX.BIT). That the drives are left as the
last segment of the shape leaves them, and as they were after an empty shape, is the model's choice (log entry 17). -/
def Obligations.TxBitEmitsTheNextBit : Prop :=
  ∀ (s : State) (b : BusId) (bus : Bus) (byte : Byte) (v : Bool) (shape : List Segment), s.buses[b.val]? = some bus →
    (Instr.txBit b).selector = 0x85 ∧
    (bus.t.txPhase = .data → readCell bus.t.wb (bus.t.txBit / 8) = some byte →
      v = byte.getLsbD (7 - bus.t.txBit % 8) →
      shape =
        (if bus.t.txBit % 2 = 0 then (if v then s.cfg.bitWave01 else s.cfg.bitWave00)
         else (if v then s.cfg.bitWave11 else s.cfg.bitWave10)) →
      exec (.txBit b) s =
        .next { s with
          buses := s.buses.set b.val
            { bus with
              t :=
                { bus.t with
                  driveA := (shape.getLast?.map Segment.lineA).getD bus.t.driveA
                  driveB := (shape.getLast?.map Segment.lineB).getD bus.t.driveB
                  txBit := bus.t.txBit + 1
                  txPhase := if bus.t.txBit + 1 = 8 * bus.t.wbLen then .stop else .data }
              wireTx := bus.wireTx ++
                [.bit ⟨v, if bus.t.txBit % 2 = 0 then s.cfg.firstClockLine else otherLine s.cfg.firstClockLine⟩] } })

/-- R164: TX.END emits END, releases both lines, puts the engine at rest and takes TXCOMPLETE in the same step. -/
def Obligations.TxEndTakesTxComplete : Prop :=
  ∀ (s : State) (b : BusId) (bus : Bus), s.buses[b.val]? = some bus → bus.windowEnd ≤ s.now →
    (Instr.txEnd b).selector = 0x86 ∧
    (bus.t.txPhase = .stop →
      exec (.txEnd b) s =
        exec (.txComplete b)
          { s with
            buses := s.buses.set b.val
              { bus with
                t := { bus.t with txPhase := .idle, driveA := .release, driveB := .release }
                wireTx := bus.wireTx ++ [.stop] } }) ∧
    (bus.t.txPhase = .stop → bus.t.writeBusy = true → bus.t.expectResponse = false →
      exec (.txEnd b) s =
        .next { s with
          buses := s.buses.set b.val
            { bus with
              t := { bus.t with txPhase := .idle, driveA := .release, driveB := .release, writeBusy := false }
              wireTx := bus.wireTx ++ [.stop] } }) ∧
    (bus.t.txPhase = .stop → bus.t.writeBusy = true → bus.t.expectResponse = true →
      exec (.txEnd b) s =
        .next { s with
          buses := s.buses.set b.val
            { bus with
              t :=
                { bus.t with
                  txPhase := .idle, driveA := .release, driveB := .release
                  writeBusy := false, readBusy := true
                  rbCount := 0, rxBitCnt := 0, rxShift := 0, rxCrc := 0, rxOverflow := false, rxBad := false
                  rxPhase := .waitStart
                  deadline := s.now + bus.t.readTimeout.toNat }
              wireTx := bus.wireTx ++ [.stop] } })

/-- R159 and R98: from the start of a transmission one TX.START and `8 x T.wbLen` TX.BIT emit START and the bits of the
frame in wire order, and end in phase END; the rest of the transport but the drives is untouched. -/
def Obligations.TransmissionEmitsTheFrame : Prop :=
  ∀ (s : State) (b : BusId) (bus : Bus) (frame : List Byte), s.buses[b.val]? = some bus →
    bus.t.txPhase = .start → bus.t.txBit = 0 → frame ≠ [] → bus.t.wbLen = frame.length →
    (∀ a, a < frame.length → readCell bus.t.wb a = frame[a]?) →
    ∃ dA dB : Drive,
      execAll (.txStart b :: List.replicate (8 * frame.length) (.txBit b)) s =
        .next { s with
          buses := s.buses.set b.val
            { bus with
              t := { bus.t with txPhase := .stop, txBit := 8 * frame.length, driveA := dA, driveB := dB }
              wireTx := bus.wireTx ++ .start ::
                (List.range (8 * frame.length)).map (fun k =>
                  .bit ⟨(frame.getD (k / 8) 0).getLsbD (7 - k % 8),
                    if k % 2 = 0 then s.cfg.firstClockLine else otherLine s.cfg.firstClockLine⟩) } }

/-! ## The receive engine -/

/-- R177: in WAIT_START a START opens the frame and every other symbol is dropped. -/
def Obligations.RxWaitStartWaitsForStart : Prop :=
  ∀ (s : State) (b : BusId) (bus : Bus), s.buses[b.val]? = some bus →
    (∀ symbol, (Instr.rxWaitStart b symbol).selector = 0x88) ∧
    (bus.t.rxPhase = .waitStart →
      exec (.rxWaitStart b .start) s =
        .next { s with buses := s.buses.set b.val { bus with t := { bus.t with rxPhase := .data } } }) ∧
    (bus.t.rxPhase = .waitStart → ∀ symbol, symbol ≠ .start → exec (.rxWaitStart b symbol) s = .next s)

/-- RX.BIT, on a bit of its line phase, shifts it in; the eighth bit of a byte stores it, folds it into the running CRC and
counts it, or sets the overflow latch when the buffer is full (43_bus_receiver.md, input, RX.BIT, full buffer). That the
elements of the read buffer beyond the count are as before is the model's choice (log entry 42). A bit of the other line
phase: `RxBadKillsTheReception`. -/
def Obligations.RxBitAssemblesBytes : Prop :=
  ∀ (s : State) (b : BusId) (bus : Bus) (v : Bool) (clock : Line), s.buses[b.val]? = some bus →
    clock = (if bus.t.rxBitCnt.val % 2 = 0 then s.cfg.firstClockLine else otherLine s.cfg.firstClockLine) →
    (Instr.rxBit b ⟨v, clock⟩).selector = 0x89 ∧
    (bus.t.rxPhase = .data → bus.t.rxBitCnt.val < 7 →
      exec (.rxBit b ⟨v, clock⟩) s =
        .next { s with
          buses := s.buses.set b.val
            { bus with
              t :=
                { bus.t with
                  rxShift := (bus.t.rxShift <<< 1) ||| (if v then 1 else 0)
                  rxBitCnt := bus.t.rxBitCnt + 1 } } }) ∧
    (bus.t.rxPhase = .data → bus.t.rxBitCnt.val = 7 → bus.t.rbCount < 1029 →
      ∃ rb : ByteMemory,
        (∀ a, readCell rb a =
          if a = bus.t.rbCount then some ((bus.t.rxShift <<< 1) ||| (if v then 1 else 0)) else readCell bus.t.rb a) ∧
        exec (.rxBit b ⟨v, clock⟩) s =
          .next { s with
            buses := s.buses.set b.val
              { bus with
                t :=
                  { bus.t with
                    rxShift := (bus.t.rxShift <<< 1) ||| (if v then 1 else 0)
                    rb := rb
                    rxCrc := bus.t.rxCrc ^^^ ((bus.t.rxShift <<< 1) ||| (if v then 1 else 0))
                    rbCount := bus.t.rbCount + 1
                    rxBitCnt := 0 } } }) ∧
    (bus.t.rxPhase = .data → bus.t.rxBitCnt.val = 7 → 1029 ≤ bus.t.rbCount →
      exec (.rxBit b ⟨v, clock⟩) s =
        .next { s with
          buses := s.buses.set b.val
            { bus with
              t :=
                { bus.t with
                  rxShift := (bus.t.rxShift <<< 1) ||| (if v then 1 else 0)
                  rxOverflow := true
                  rxBitCnt := 0 } } })

/-- The eight symbols of a byte, most significant bit first, their lines alternating from `FIRST_CLOCK_LINE`, store that byte
and leave the bytes stored before it as they were (43_bus_receiver.md, RX.BIT's example); that the elements beyond the count
are as before too is the model's choice (log entry 42). -/
def Obligations.EightBitsStoreTheByte : Prop :=
  ∀ (s : State) (b : BusId) (bus : Bus) (x : Byte), s.buses[b.val]? = some bus →
    bus.t.rxPhase = .data → bus.t.rxBitCnt = 0 → bus.t.rbCount < 1029 →
    ∃ rb : ByteMemory,
      (∀ a, readCell rb a = if a = bus.t.rbCount then some x else readCell bus.t.rb a) ∧
      execAll ([7, 6, 5, 4, 3, 2, 1, 0].map (fun j => .rxBit b
          ⟨x.getLsbD j, if j % 2 = 1 then s.cfg.firstClockLine else otherLine s.cfg.firstClockLine⟩)) s =
        .next { s with
          buses := s.buses.set b.val
            { bus with
              t :=
                { bus.t with
                  rb := rb, rbCount := bus.t.rbCount + 1, rxCrc := bus.t.rxCrc ^^^ x, rxShift := x } } }

/-- R182: RX.END latches an incomplete byte, turns the engine off and takes RXCOMPLETE with the byte count in the same
step; it always ends the read phase. -/
def Obligations.RxEndTakesRxComplete : Prop :=
  ∀ (s : State) (b : BusId) (bus : Bus), s.buses[b.val]? = some bus →
    (Instr.rxEnd b).selector = 0x8A ∧
    (bus.t.rxPhase = .data →
      exec (.rxEnd b) s =
        exec (.rxComplete b bus.t.rbCount)
          { s with
            buses := s.buses.set b.val
              { bus with t := { bus.t with rxBad := decide (bus.t.rxBitCnt ≠ 0), rxPhase := .off } } }) ∧
    (bus.t.rxPhase = .data → bus.t.readBusy = true → bus.t.rbCount ≤ 1029 →
      (∀ a, a < bus.t.rbCount → (readCell bus.t.rb a).isSome = true) →
      ∃ bus' : Bus, exec (.rxEnd b) s = .next { s with buses := s.buses.set b.val bus' } ∧
        bus'.t.rxPhase = .off ∧ bus'.t.readBusy = false ∧ bus'.t.rxBad = decide (bus.t.rxBitCnt ≠ 0) ∧
        bus'.t.rb = bus.t.rb ∧ bus'.t.wb = bus.t.wb ∧ bus'.main = bus.main ∧ bus'.subs = bus.subs ∧
        (bus.t.rxBitCnt ≠ 0 → bus'.t.lv = bus.t.lv ∧ bus'.t.lvLen = bus.t.lvLen ∧ bus'.t.lvNew = bus.t.lvNew))

/-- RX.BAD kills the reception and changes nothing else, and so does a bit of the wrong line phase; in DEAD every further
symbol is dropped. This is the one treatment the spec gives an unspecified behaviour, on which it says no claim must rest
(43_bus_receiver.md, input and RX.BAD; U1; log entries 23 and 39): the model's choice. -/
def Obligations.RxBadKillsTheReception : Prop :=
  ∀ (s : State) (b : BusId) (bus : Bus), s.buses[b.val]? = some bus →
    (Instr.rxBad b).selector = 0x8B ∧
    (bus.t.rxPhase = .data →
      exec (.rxBad b) s =
        .next { s with buses := s.buses.set b.val { bus with t := { bus.t with rxPhase := .dead } } }) ∧
    (bus.t.rxPhase = .data → ∀ (v : Bool) (clock : Line),
      clock ≠ (if bus.t.rxBitCnt.val % 2 = 0 then s.cfg.firstClockLine else otherLine s.cfg.firstClockLine) →
      exec (.rxBit b ⟨v, clock⟩) s =
        .next { s with buses := s.buses.set b.val { bus with t := { bus.t with rxPhase := .dead } } }) ∧
    (bus.t.rxPhase = .dead → ∀ bit symbol, exec (.rxBit b bit) s = .next s ∧ exec (.rxEnd b) s = .next s ∧
      exec (.rxWaitStart b symbol) s = .next s ∧ exec (.rxBad b) s = .next s)

/-- What the model does with a micro-step that is not enabled and with an event that no engine raises there: a
transmitter's micro-step is refused, a receiver's symbol is dropped in OFF and DEAD and refused in the other active phase,
an event is refused while its engine runs or with an operand that is not `T.rbCount` (R103's enabling column, R290; the
outcomes are the model's choice, log entries 18, 19 and 20). -/
def Obligations.StepsThatAreNotEnabled : Prop :=
  ∀ (s : State) (b : BusId) (bus : Bus), s.buses[b.val]? = some bus →
    (bus.t.txPhase ≠ .start → exec (.txStart b) s = .refused .notEnabled) ∧
    (bus.t.txPhase ≠ .data → exec (.txBit b) s = .refused .notEnabled) ∧
    (bus.t.txPhase ≠ .stop → exec (.txEnd b) s = .refused .notEnabled) ∧
    (bus.t.rxPhase = .off ∨ bus.t.rxPhase = .dead → exec (.rxEnd b) s = .next s ∧ exec (.rxBad b) s = .next s ∧
      (∀ bit, exec (.rxBit b bit) s = .next s) ∧ ∀ symbol, exec (.rxWaitStart b symbol) s = .next s) ∧
    (bus.t.rxPhase = .waitStart → exec (.rxEnd b) s = .refused .notEnabled ∧ exec (.rxBad b) s = .refused .notEnabled ∧
      ∀ bit, exec (.rxBit b bit) s = .refused .notEnabled) ∧
    (bus.t.rxPhase = .data → ∀ symbol, exec (.rxWaitStart b symbol) s = .refused .notEnabled) ∧
    (bus.t.writeBusy = true → bus.t.txPhase ≠ .idle → exec (.txComplete b) s = .refused .notRaised) ∧
    (bus.t.readBusy = true → ∀ count, (bus.t.rxPhase ≠ .off ∨ count ≠ bus.t.rbCount) →
      exec (.rxComplete b count) s = .refused .notRaised)

/-- A step taken inside an earlier open-line window of its bus reads the end of that window as the time (the model's
choice, log entry 9): WRITE, TXCOMPLETE and TX.END, the only steps that read the clock, do what they do once the clock
is there. -/
def Obligations.StepsInsideAWindowReadItsEnd : Prop :=
  ∀ (s t : State) (b : BusId) (bus : Bus) (i : Instr), s.buses[b.val]? = some bus → s.now ≤ bus.windowEnd →
    ((∃ command recipient payload len expect timeout, i = .write b command recipient payload len expect timeout) ∨
      i = .txComplete b ∨ i = .txEnd b) →
    exec i { s with now := bus.windowEnd } = .next t → exec i s = .next { t with now := s.now }

/-- An engine that PROCESSEVENTS has stopped raises no event: its micro-steps are no longer enabled, and a symbol that
still arrives is dropped (44_bus_transport.md, arbitration). This is the spec's exclusion of a stale event, on which it lets
no claim about hardware rest (U3; log entry 25), and the outcomes are the model's choice: a transmitter's micro-step is
refused (log entry 19), a receiver's completes and changes nothing (log entry 18). -/
def Obligations.StoppedEngineRaisesNothing : Prop :=
  ∀ (s : State) (b : BusId) (bus : Bus) (currentTime : Nat), s.buses[b.val]? = some bus →
    bus.t.deadline ≤ currentTime →
    (bus.t.writeBusy = true →
      ∃ t : State, exec (.processEvents b currentTime) s = .next t ∧ exec (.txStart b) t = .refused .notEnabled ∧
        exec (.txBit b) t = .refused .notEnabled ∧ exec (.txEnd b) t = .refused .notEnabled) ∧
    (bus.t.writeBusy = false → bus.t.readBusy = true →
      ∃ t : State, exec (.processEvents b currentTime) s = .next t ∧ exec (.rxEnd b) t = .next t ∧
        exec (.rxBad b) t = .next t ∧ (∀ bit, exec (.rxBit b bit) t = .next t) ∧
        ∀ symbol, exec (.rxWaitStart b symbol) t = .next t)

/-! ## The peripheral node -/

/-- R232: NODE.HANDLEDATA on a device-information response, on a data transfer for an attached poller, and on everything
else. -/
def Obligations.HandleDataByCommand : Prop :=
  ∀ (s : State) (b : BusId) (bus : Bus) (id : NodeId) (len cmd : Byte) (payload : List Word) (n : Node),
    s.buses[b.val]? = some bus → bus.node id = n →
    (Instr.nodeHandleData b id len cmd payload).selector = 0x10 ∧
    (len.toNat ≤ payload.length → cmd = s.cfg.cmdDeviceInfoResponse →
      evalFrameTest len payload s.cfg.isController = true → n.poller.attached = false →
      exec (.nodeHandleData b id len cmd payload) s =
        .next { s with
          buses := s.buses.set b.val
            (bus.setNode id
              { n with
                present := true
                poller :=
                  { n.poller with
                    attached := true, cond := neutralCondition s.cfg.condLayout, waiting := false, noData := 0
                    nextCheck := 0, newData := false }
                calls := n.calls ++ [.updateControllerConnected true] })
          ret := .bool true }) ∧
    (len.toNat ≤ payload.length → cmd = s.cfg.cmdDeviceInfoResponse →
      (evalFrameTest len payload s.cfg.isController = false ∨ n.poller.attached = true) →
      exec (.nodeHandleData b id len cmd payload) s =
        .next { s with buses := s.buses.set b.val (bus.setNode id { n with present := true }), ret := .bool true }) ∧
    (len.toNat ≤ payload.length → cmd ≠ s.cfg.cmdDeviceInfoResponse → cmd = s.cfg.cmdDataTransfer →
      n.poller.attached = true →
      exec (.nodeHandleData b id len cmd payload) s =
        .next { s with
          buses := s.buses.set b.val
            (bus.setNode id
              { n with
                poller :=
                  { n.poller with
                    newData := true, rxCmd := cmd, rxLen := len
                    rxW0 := if 1 ≤ len.toNat then payload.getD 0 0 else 0
                    rxW1 := if 2 ≤ len.toNat then payload.getD 1 0 else 0 } })
          ret := .bool true }) ∧
    (len.toNat ≤ payload.length → cmd ≠ s.cfg.cmdDeviceInfoResponse →
      (cmd ≠ s.cfg.cmdDataTransfer ∨ n.poller.attached = false) →
      exec (.nodeHandleData b id len cmd payload) s =
        .next { s with
          buses := s.buses.set b.val { bus with raised := bus.raised ++ [.unexpectedFrame] }
          ret := .bool false })

/-- NODE.SETCONNECTED sets presence; `false` detaches the poller, and on a main node it reaches every sub-node
(45_peripheral_node.md, NODE.SETCONNECTED). That `true` does so on a sub-node whose main node is absent is the model's
choice between the operation's pseudocode and the invariant the spec infers (log entry 40). -/
def Obligations.SetConnectedSetsPresence : Prop :=
  ∀ (s : State) (b : BusId) (bus : Bus) (id : NodeId), s.buses[b.val]? = some bus →
    (∀ st, (Instr.nodeSetConnected b id st).selector = 0x12) ∧
    exec (.nodeSetConnected b id true) s =
      .next { s with
        buses := s.buses.set b.val (bus.setNode id { bus.node id with present := true })
        ret := .none } ∧
    ∃ bus' : Bus,
      exec (.nodeSetConnected b id false) s = .next { s with buses := s.buses.set b.val bus', ret := .none } ∧
      bus'.t = bus.t ∧ bus'.wireTx = bus.wireTx ∧ bus'.raised = bus.raised ∧ bus'.env = bus.env ∧
      bus'.windowEnd = bus.windowEnd ∧
      ∀ other : NodeId, bus'.node other =
        if other = id ∨ id = .main then
          if (bus.node other).poller.attached then
            { bus.node other with
              present := false
              poller := { (bus.node other).poller with attached := false, newData := false }
              calls := (bus.node other).calls ++ [.updateControllerConnected false] }
          else { bus.node other with present := false }
        else bus.node other

/-- R242: NODE.MAINPERIPHERALDISCONNECTED makes every sub-node absent and leaves the main node; on a sub-node it is
refused. -/
def Obligations.MainPeripheralDisconnectedMakesSubNodesAbsent : Prop :=
  ∀ (s : State) (b : BusId) (bus : Bus), s.buses[b.val]? = some bus →
    (∀ id, (Instr.nodeMainPeripheralDisconnected b id).selector = 0x13) ∧
    (∀ i, exec (.nodeMainPeripheralDisconnected b (.sub i)) s = .refused .notMainNode) ∧
    ∃ bus' : Bus,
      exec (.nodeMainPeripheralDisconnected b .main) s = .next { s with buses := s.buses.set b.val bus', ret := .none } ∧
      bus'.t = bus.t ∧ bus'.main = bus.main ∧ bus'.wireTx = bus.wireTx ∧ bus'.raised = bus.raised ∧
      bus'.env = bus.env ∧ bus'.windowEnd = bus.windowEnd ∧
      ∀ i : Fin 5, bus'.node (.sub i) =
        if (bus.node (.sub i)).poller.attached then
          { bus.node (.sub i) with
            present := false
            poller := { (bus.node (.sub i)).poller with attached := false, newData := false }
            calls := (bus.node (.sub i)).calls ++ [.updateControllerConnected false] }
        else { bus.node (.sub i) with present := false }

/-- R244: NODE.ISPRESENT answers the node's presence and changes nothing. -/
def Obligations.IsPresentAnswersPresence : Prop :=
  ∀ (s : State) (b : BusId) (bus : Bus) (id : NodeId), s.buses[b.val]? = some bus →
    (Instr.nodeIsPresent b id).selector = 0x14 ∧
    exec (.nodeIsPresent b id) s = .next { s with ret := .bool (bus.node id).present }

/-- R246: MAIN.DISPATCH hands a frame to the node its sender byte names on this bus, and ignores every other frame. -/
def Obligations.DispatchBySender : Prop :=
  ∀ (s : State) (b : BusId) (bus : Bus) (cmd recipient sender len : Byte) (payload : List Word) (length : Nat)
    (words : List Word), s.buses[b.val]? = some bus →
    words = headerWord s.cfg.hdrLayout cmd recipient sender len :: payload →
    (Instr.mainDispatch b words length).selector = 0x15 ∧
    exec (.mainDispatch b words 0) s = .refused .emptyFrame ∧
    (0 < length → length ≤ words.length → sender.extractLsb' 6 2 ≠ playerOfBus s.cfg b.val →
      exec (.mainDispatch b words length) s =
        .next { s with
          buses := s.buses.set b.val { bus with raised := bus.raised ++ [.unexpectedFrame] }, ret := .bool false }) ∧
    (0 < length → length ≤ words.length → sender.extractLsb' 6 2 = playerOfBus s.cfg b.val →
      len.toNat ≤ payload.length → sender.getLsbD 5 = true →
      ∃ t : State, exec (.mainDispatch b words length) s = .next t ∧
        exec (.nodeHandleData b .main len cmd payload) s = .next t) ∧
    (0 < length → length ≤ words.length → sender.extractLsb' 6 2 = playerOfBus s.cfg b.val →
      len.toNat ≤ payload.length → sender.getLsbD 5 = false → bus.main.present = true →
      ∀ i : Fin 5, sender &&& 0x1F = 1 <<< i.val →
        ∃ t : State, exec (.mainDispatch b words length) s = .next t ∧
          exec (.nodeHandleData b (.sub i) len cmd payload) s = .next t) ∧
    (0 < length → length ≤ words.length → sender.extractLsb' 6 2 = playerOfBus s.cfg b.val →
      sender.getLsbD 5 = false → (bus.main.present = false ∨ ∀ i : Fin 5, sender &&& 0x1F ≠ 1 <<< i.val) →
      exec (.mainDispatch b words length) s =
        .next { s with
          buses := s.buses.set b.val { bus with raised := bus.raised ++ [.unexpectedFrame] }, ret := .bool false })

/-- Part (1) of NODE.TASK: a new frame is fetched with GETREADDATA and dispatched before the main node's own work, which
then goes on as with no new frame (45_peripheral_node.md, NODE.TASK). -/
def Obligations.TaskDispatchesANewFrame : Prop :=
  ∀ (s u v : State) (b : BusId) (words : List Word) (length : Nat) (currentTime : Nat),
    exec (.getReadData b) s = .next u → u.ret = .readData words length true →
    exec (.mainDispatch b words length) u = .next v →
    exec (.nodeTask b .main currentTime) s = exec (.nodeTask b .main currentTime) v

/-- Parts (2) and (3) of NODE.TASK when no new frame waits: an absent node probes when its time has come, a present
node ticks its attached poller and is disconnected when the tick says so; then a present main node runs its sub-nodes'
tasks in index order (45_peripheral_node.md, NODE.TASK). Two points are the model's choice: that DISCONNECT is recorded once,
by the tick, and not again by the task (log entry 16); and, in the fan-out clause, that a sub-node's WRITE begins its
window at the end of the one in which an earlier WRITE of the same step found the lines not idle (log entry 38). -/
def Obligations.TaskProbesTicksAndFansOut : Prop :=
  ∀ (s : State) (b : BusId) (bus : Bus) (id : NodeId) (currentTime : Nat), s.buses[b.val]? = some bus →
    (id = .main → bus.t.lvNew = false ∧ Written bus.t.lv bus.t.lvLen) →
    (Instr.nodeTask b id currentTime).selector = 0x11 ∧
    ∃ (own : State) (bus' : Bus), own.ret = .none ∧ own.buses[b.val]? = some bus' ∧
      ((bus.node id).present = false → currentTime < (bus.node id).nextProbe → own = { s with ret := .none }) ∧
      ((bus.node id).present = false → (bus.node id).nextProbe ≤ currentTime →
        ∃ (u : State) (ok : Bool) (bus1 : Bus),
          exec (.write b s.cfg.cmdDeviceInfoRequest (bus.node id).addr [] 0 true s.cfg.probeReadTimeoutUs) s = .next u ∧
          u.ret = .bool ok ∧ u.buses[b.val]? = some bus1 ∧
          own = { u with
            buses := u.buses.set b.val
              (if ok then
                bus1.setNode id { bus1.node id with nextProbe := currentTime + s.cfg.probePeriodUs }
               else bus1)
            ret := .none }) ∧
      ((bus.node id).present = true → (bus.node id).poller.attached = false → own = { s with ret := .none }) ∧
      ((bus.node id).present = true → (bus.node id).poller.attached = true →
        ∃ (u : State) (connected : Bool),
          exec (.pollerTick b id currentTime) s = .next u ∧ u.ret = .bool connected ∧
          (connected = true → own = { u with ret := .none }) ∧
          (connected = false → execAll [.pollerDetach b id, .nodeSetConnected b id false] u = .next own)) ∧
      (id ≠ .main ∨ bus'.main.present = false → exec (.nodeTask b id currentTime) s = .next own) ∧
      (id = .main → bus'.main.present = true →
        exec (.nodeTask b id currentTime) s =
          execAll ([0, 1, 2, 3, 4].map (fun i => .nodeTask b (.sub i) currentTime)) own ∧
        ∃ t : State, exec (.nodeTask b id currentTime) s = .next t)

/-! ## The controller poller -/

/-- R256 and R258: POLLER.ATTACH starts a fresh poller, POLLER.DETACH ends the poller, and each tells the collaborator. -/
def Obligations.AttachAndDetachBeginAndEndThePoller : Prop :=
  ∀ (s : State) (b : BusId) (bus : Bus) (id : NodeId), s.buses[b.val]? = some bus →
    (Instr.pollerAttach b id).selector = 0x19 ∧
    exec (.pollerAttach b id) s =
      .next { s with
        buses := s.buses.set b.val
          (bus.setNode id
            { bus.node id with
              poller :=
                { (bus.node id).poller with
                  attached := true
                  cond :=
                    { buttons := List.replicate s.cfg.condLayout.buttonBits.length false
                      padUp := false, padDown := false, padLeft := false, padRight := false
                      triggerLeft := 0, triggerRight := 0, thumbXLeft := 0, thumbYLeft := 0, thumbXRight := 0
                      thumbYRight := 0 }
                  waiting := false, noData := 0, nextCheck := 0, newData := false }
              calls := (bus.node id).calls ++ [.updateControllerConnected true] })
        ret := .none } ∧
    (Instr.pollerDetach b id).selector = 0x1A ∧
    exec (.pollerDetach b id) s =
      .next { s with
        buses := s.buses.set b.val
          (bus.setNode id
            { bus.node id with
              poller := { (bus.node id).poller with attached := false, newData := false }
              calls := (bus.node id).calls ++ [.updateControllerConnected false] })
        ret := .none }

/-- R262: transition 2 of POLLER.TICK, on an attached poller with no new data: nothing before the check time, else a poll,
a miss, or at the third miss the report of a disconnection. -/
def Obligations.TickPollsCountsMissesAndDisconnects : Prop :=
  ∀ (s : State) (b : BusId) (bus : Bus) (id : NodeId) (currentTime : Nat) (n : Node), s.buses[b.val]? = some bus →
    bus.node id = n → n.poller.attached = true → n.poller.newData = false →
    (currentTime < n.poller.nextCheck → exec (.pollerTick b id currentTime) s = .next { s with ret := .bool true }) ∧
    (n.poller.nextCheck ≤ currentTime → n.poller.waiting = false →
      ∃ (u : State) (ok : Bool) (bus1 : Bus),
        exec (.write b s.cfg.cmdGetCondition n.addr s.cfg.condReqPayload
          (BitVec.ofNat 8 s.cfg.condReqPayload.length) true s.cfg.condReadTimeoutUs) s = .next u ∧
        u.ret = .bool ok ∧ u.buses[b.val]? = some bus1 ∧
        exec (.pollerTick b id currentTime) s =
          .next { u with
            buses := u.buses.set b.val
              (if ok then
                bus1.setNode id
                  { bus1.node id with
                    poller :=
                      { (bus1.node id).poller with
                        waiting := true, nextCheck := currentTime + s.cfg.pollPeriodUs } }
               else bus1)
            ret := .bool true }) ∧
    (n.poller.nextCheck ≤ currentTime → n.poller.waiting = true → n.poller.noData + 1 = 3 →
      exec (.pollerTick b id currentTime) s =
        .next { s with
          buses := s.buses.set b.val
            (({ bus with raised := bus.raised ++ [.missedPoll, .disconnect] } : Bus).setNode id
              { n with
                poller :=
                  { n.poller with
                    cond := neutralCondition s.cfg.condLayout, noData := 0, waiting := false } })
          ret := .bool false }) ∧
    (n.poller.nextCheck ≤ currentTime → n.poller.waiting = true → n.poller.noData + 1 ≠ 3 →
      s.cfg.repollOnMiss = false →
      exec (.pollerTick b id currentTime) s =
        .next { s with
          buses := s.buses.set b.val
            (({ bus with raised := bus.raised ++ [.missedPoll] } : Bus).setNode id
              { n with poller := { n.poller with noData := n.poller.noData + 1, waiting := false } })
          ret := .bool true }) ∧
    (n.poller.nextCheck ≤ currentTime → n.poller.waiting = true → n.poller.noData + 1 ≠ 3 →
      s.cfg.repollOnMiss = true →
      ∃ t : State, exec (.pollerTick b id currentTime) s = .next t ∧
        exec (.pollerTick b id currentTime)
          { s with
            buses := s.buses.set b.val
              (({ bus with raised := bus.raised ++ [.missedPoll] } : Bus).setNode id
                { n with poller := { n.poller with noData := n.poller.noData + 1, waiting := false } }) } = .next t)

/-- R260: transition 1 of POLLER.TICK comes before transition 2: new data resets the counter and the wait in both states;
a response of the expected shape is decoded, forwarded and stored, any other frame is ignored. -/
def Obligations.TickTakesNewDataFirst : Prop :=
  ∀ (s : State) (b : BusId) (bus : Bus) (id : NodeId) (currentTime : Nat) (n : Node), s.buses[b.val]? = some bus →
    bus.node id = n →
    (Instr.pollerTick b id currentTime).selector = 0x18 ∧
    (n.poller.attached = false → exec (.pollerTick b id currentTime) s = .refused .notAttached) ∧
    (n.poller.attached = true → n.poller.newData = true → n.poller.rxCmd = s.cfg.cmdDataTransfer →
      n.poller.rxLen = s.cfg.condRespLen →
      ∃ (c : Condition) (t : State),
        exec (.condDecode n.poller.rxW0 n.poller.rxW1) s = .next { s with ret := .condition c } ∧
        exec (.pollerTick b id currentTime) s = .next t ∧
        exec (.pollerTick b id currentTime)
          { s with
            buses := s.buses.set b.val
              (bus.setNode id
                { n with
                  poller := { n.poller with newData := false, noData := 0, waiting := false, cond := c }
                  calls := n.calls ++ forwardChanges s.cfg.condLayout.buttonBits.length n.poller.cond c }) } =
          .next t) ∧
    (n.poller.attached = true → n.poller.newData = true →
      (n.poller.rxCmd ≠ s.cfg.cmdDataTransfer ∨ n.poller.rxLen ≠ s.cfg.condRespLen) →
      ∃ t : State,
        exec (.pollerTick b id currentTime) s = .next t ∧
        exec (.pollerTick b id currentTime)
          { s with
            buses := s.buses.set b.val
              (({ bus with raised := bus.raised ++ [.unexpectedFrame] } : Bus).setNode id
                { n with poller := { n.poller with newData := false, noData := 0, waiting := false } }) } = .next t)

/-- The disconnect threshold (46_controller_poller.md, section 2): a tick reports a disconnection exactly on the third
consecutive missed deadline, a tick counts at most one miss, a refused write counts none, and new data resets the
count. -/
def Obligations.DisconnectOnTheThirdConsecutiveMiss : Prop :=
  ∀ (s : State) (b : BusId) (bus : Bus) (id : NodeId) (currentTime : Nat) (q : Poller), s.buses[b.val]? = some bus →
    (bus.node id).poller = q → q.attached = true →
    ∃ (t : State) (bus' : Bus) (connected : Bool),
      exec (.pollerTick b id currentTime) s = .next t ∧ t.ret = .bool connected ∧ t.buses[b.val]? = some bus' ∧
      (connected = false ↔ q.newData = false ∧ q.nextCheck ≤ currentTime ∧ q.waiting = true ∧ q.noData = 2) ∧
      (bus'.node id).poller.noData =
        if q.newData then 0
        else if q.nextCheck ≤ currentTime ∧ q.waiting = true then (if q.noData = 2 then 0 else q.noData + 1)
        else q.noData

/-- R268: COND.DECODE reads every flag active-low and every analog byte as its value minus 128, not clamped. -/
def Obligations.CondDecodeCentersAndInverts : Prop :=
  ∀ (w0 w1 : Word) (s : State) (l : CondLayout) (v : BitVec 64), s.cfg.condLayout = l → v = w0 ++ w1 →
    (Instr.condDecode w0 w1).selector = 0x1B ∧
    ∃ c : Condition, exec (.condDecode w0 w1) s = .next { s with ret := .condition c } ∧
      c.buttons.length = l.buttonBits.length ∧
      (∀ (k : Nat) (i : Fin 64), l.buttonBits[k]? = some i → c.buttons[k]? = some (decide (v.getLsbD i.val = false))) ∧
      c.padUp = decide (v.getLsbD l.padUp.val = false) ∧ c.padDown = decide (v.getLsbD l.padDown.val = false) ∧
      c.padLeft = decide (v.getLsbD l.padLeft.val = false) ∧ c.padRight = decide (v.getLsbD l.padRight.val = false) ∧
      c.triggerLeft.toInt = (v.extractLsb' l.triggerLeft.val 8).toNat - 128 ∧
      c.triggerRight.toInt = (v.extractLsb' l.triggerRight.val 8).toNat - 128 ∧
      c.thumbXLeft.toInt = (v.extractLsb' l.thumbXLeft.val 8).toNat - 128 ∧
      c.thumbYLeft.toInt = (v.extractLsb' l.thumbYLeft.val 8).toNat - 128 ∧
      c.thumbXRight.toInt = (v.extractLsb' l.thumbXRight.val 8).toNat - 128 ∧
      c.thumbYRight.toInt = (v.extractLsb' l.thumbYRight.val 8).toNat - 128

/-- R270: FORWARD_CHANGES makes one call for each field that changed, in the order of the rule, and one `send()` at the
end exactly when there was a change; equal records make no call. -/
def Obligations.ForwardChangesCallsForChangedFields : Prop :=
  ∀ (k : Nat) (old new : Condition),
    (∀ (i : Nat) (v : Bool), CollabCall.setButton i v ∈ forwardChanges k old new ↔
      i < k ∧ new.buttons.getD i false = v ∧ old.buttons.getD i false ≠ v) ∧
    (∀ v, CollabCall.setDigitalPad .up v ∈ forwardChanges k old new ↔ new.padUp = v ∧ old.padUp ≠ v) ∧
    (∀ v, CollabCall.setDigitalPad .down v ∈ forwardChanges k old new ↔ new.padDown = v ∧ old.padDown ≠ v) ∧
    (∀ v, CollabCall.setDigitalPad .left v ∈ forwardChanges k old new ↔ new.padLeft = v ∧ old.padLeft ≠ v) ∧
    (∀ v, CollabCall.setDigitalPad .right v ∈ forwardChanges k old new ↔ new.padRight = v ∧ old.padRight ≠ v) ∧
    (∀ v, CollabCall.setAnalogTrigger true v ∈ forwardChanges k old new ↔ new.triggerLeft = v ∧ old.triggerLeft ≠ v) ∧
    (∀ v, CollabCall.setAnalogTrigger false v ∈ forwardChanges k old new ↔
      new.triggerRight = v ∧ old.triggerRight ≠ v) ∧
    (∀ v, CollabCall.setAnalogThumb .x true v ∈ forwardChanges k old new ↔ new.thumbXLeft = v ∧ old.thumbXLeft ≠ v) ∧
    (∀ v, CollabCall.setAnalogThumb .y true v ∈ forwardChanges k old new ↔ new.thumbYLeft = v ∧ old.thumbYLeft ≠ v) ∧
    (∀ v, CollabCall.setAnalogThumb .x false v ∈ forwardChanges k old new ↔
      new.thumbXRight = v ∧ old.thumbXRight ≠ v) ∧
    (∀ v, CollabCall.setAnalogThumb .y false v ∈ forwardChanges k old new ↔
      new.thumbYRight = v ∧ old.thumbYRight ≠ v) ∧
    (forwardChanges k old new = [] ∨
      ∃ calls, calls ≠ [] ∧ forwardChanges k old new = calls ++ [.send] ∧ CollabCall.send ∉ calls) ∧
    forwardChanges k old old = [] ∧
    (forwardChanges k old new).Sublist
      ((List.range k).map (fun i => .setButton i (new.buttons.getD i false)) ++
        [.setDigitalPad .up new.padUp, .setDigitalPad .down new.padDown, .setDigitalPad .left new.padLeft,
          .setDigitalPad .right new.padRight, .setAnalogTrigger true new.triggerLeft,
          .setAnalogTrigger false new.triggerRight, .setAnalogThumb .x true new.thumbXLeft,
          .setAnalogThumb .y true new.thumbYLeft, .setAnalogThumb .x false new.thumbXRight,
          .setAnalogThumb .y false new.thumbYRight, .send])

/-! ## Invariants and whole-machine rules -/

/-- Every step keeps the invariant of the state: the buffers in canonical form, within bounds and written up to their
lengths, the running CRC the fold of the stored bytes, at most one busy flag, every poller below the threshold, every
address as R32 gives it. -/
def Obligations.EveryStepKeepsTheStateInvariant : Prop :=
  ∀ s t : State, StateInv s → step s = .next t → StateInv t

/-- Every step keeps the engines and the busy flags in agreement (42_bus_transmitter.md, drive discipline;
44_bus_transport.md, life of a transaction; 60_exceptions.md, nesting). -/
def Obligations.EveryStepKeepsTheEnginesInvariant : Prop :=
  ∀ (i : Instr) (s t : State), EnginesInv s → exec i s = .next t → EnginesInv t

/-- Every step but the direct calls that break it keeps a poller inside presence and a sub-node's presence inside its main
node's (45_peripheral_node.md, last rule; 70_reset_and_hazards.md, which operations the host calls). That
NODE.SETCONNECTED(true) on a sub-node whose main node is absent is among those calls is the model's choice (log
entry 40). -/
def Obligations.EveryStepKeepsThePresenceInvariant : Prop :=
  ∀ (i : Instr) (s t : State), breaksPresence s i = false → PresencesInv s → exec i s = .next t → PresencesInv t

/-- The state after reset has the three invariants, whatever the parameters, and its own parameters keep the constraints of
00_scope.md section 4. -/
def Obligations.ResetHasTheInvariants : Prop :=
  (StateInv State.reset ∧ EnginesInv State.reset ∧ PresencesInv State.reset) ∧
    (∀ p : Params, StateInv (State.resetWith p) ∧ EnginesInv (State.resetWith p) ∧ PresencesInv (State.resetWith p)) ∧
    State.reset.cfg.wf = true

/-- In a state with the invariants no step needs a buffer element that nothing has written, and no step ever faults
(00_scope.md, outcomes of a step; 10_state.md, the buffers; that such an element has no value is log entry 13). -/
def Obligations.NothingUnwrittenIsRead : Prop :=
  ∀ (i : Instr) (s : State), (∀ f, exec i s ≠ .fault f) ∧
    (StateInv s → EnginesInv s → ∀ space index, exec i s ≠ .refused (.unwritten space index))

/-- No step changes the parameters, the number of instances or an address, and the clock never decreases (10_state.md
sections 1 and 5, 60_exceptions.md section 4). The clauses on the environment's pulses and on the end of the last open-line
window are about fields of the model's own (log entries 11 and 9). -/
def Obligations.ParametersAndIdentitiesPersist : Prop :=
  ∀ s t : State, step s = .next t →
    t.cfg = s.cfg ∧ s.now ≤ t.now ∧ t.buses.length = s.buses.length ∧
    ∀ (b : Nat) (bus bus' : Bus), s.buses[b]? = some bus → t.buses[b]? = some bus' →
      bus'.t.hostAddr = bus.t.hostAddr ∧ (∀ id, (bus'.node id).addr = (bus.node id).addr) ∧ bus'.env = bus.env ∧
      bus.windowEnd ≤ bus'.windowEnd

/-- A step changes no bus but the one it acts on (60_exceptions.md, several buses). -/
def Obligations.OtherBusesAreUntouched : Prop :=
  ∀ (i : Instr) (s t : State) (b : Nat), exec i s = .next t → (∀ c : BusId, busOf i = some c → b ≠ c.val) →
    t.buses[b]? = s.buses[b]?

/-- A step on a bus that does not exist is refused (10_state.md section 1; log entry 29). -/
def Obligations.AbsentBusIsRefused : Prop :=
  ∀ (i : Instr) (s : State) (b : BusId), busOf i = some b → s.buses.length ≤ b.val → exec i s = .refused .noSuchBus

/-- The completion events and the engines' micro-steps touch no node and no poller, call no collaborator, and hand
nothing to the host (60_exceptions.md, handler entry and contexts). -/
def Obligations.EnginesTouchNoNode : Prop :=
  ∀ (i : Instr) (s t : State), engineStep i = true → exec i s = .next t →
    t.ret = s.ret ∧ t.crc = s.crc ∧ t.now = s.now ∧
    ∀ (b : Nat) (bus bus' : Bus), s.buses[b]? = some bus → t.buses[b]? = some bus' →
      bus'.main = bus.main ∧ bus'.subs = bus.subs

/-- Only RXCOMPLETE, by itself or inside RX.END, writes the snapshot, and no other step sets its flag (60_exceptions.md,
single-writer table). -/
def Obligations.OnlyRxCompleteWritesTheSnapshot : Prop :=
  ∀ (i : Instr) (s t : State), exec i s = .next t → (∀ b, i ≠ .rxEnd b) → (∀ b n, i ≠ .rxComplete b n) →
    ∀ (b : Nat) (bus bus' : Bus), s.buses[b]? = some bus → t.buses[b]? = some bus' →
      bus'.t.lv = bus.t.lv ∧ bus'.t.lvLen = bus.t.lvLen ∧ (bus'.t.lvNew = true → bus.t.lvNew = true)

/-- R337: no step writes the write buffer or its length while the bus is busy; only a WRITE that is accepted on a free bus
writes them, called by itself or by NODE.TASK or POLLER.TICK. -/
def Obligations.WriteBufferIsStableWhileBusy : Prop :=
  ∀ (i : Instr) (s t : State) (b : Nat) (bus bus' : Bus), exec i s = .next t → s.buses[b]? = some bus →
    t.buses[b]? = some bus' →
    (bus.t.writeBusy = true ∨ bus.t.readBusy = true → bus'.t.wb = bus.t.wb ∧ bus'.t.wbLen = bus.t.wbLen) ∧
    (bus'.t.wb ≠ bus.t.wb ∨ bus'.t.wbLen ≠ bus.t.wbLen →
      bus.t.writeBusy = false ∧ bus.t.readBusy = false ∧ bus'.t.writeBusy = true ∧ bus'.t.txPhase = .start ∧
      ((∃ c command recipient payload len expect timeout, i = .write c command recipient payload len expect timeout) ∨
        (∃ c id currentTime, i = .nodeTask c id currentTime) ∨ ∃ c id currentTime, i = .pollerTick c id currentTime))
end

