-- ==== Sys2Proof/Laws/State.lean ====
section
/-! SUPPORT. One lemma per field per named record update, each true by rfl, so that no later proof unfolds an update. -/

namespace Sys2Proof.Machine

@[simp] theorem Bus.raise_t (b : Bus) (c : Cond) : (b.raise c).t = b.t := rfl
@[simp] theorem Bus.raise_main (b : Bus) (c : Cond) : (b.raise c).main = b.main := rfl
@[simp] theorem Bus.raise_subs (b : Bus) (c : Cond) : (b.raise c).subs = b.subs := rfl
@[simp] theorem Bus.raise_wireTx (b : Bus) (c : Cond) : (b.raise c).wireTx = b.wireTx := rfl
@[simp] theorem Bus.raise_raised (b : Bus) (c : Cond) : (b.raise c).raised = b.raised ++ [c] := rfl
@[simp] theorem Bus.raise_env (b : Bus) (c : Cond) : (b.raise c).env = b.env := rfl
@[simp] theorem Bus.raise_windowEnd (b : Bus) (c : Cond) : (b.raise c).windowEnd = b.windowEnd := rfl

@[simp] theorem Bus.emit_t (b : Bus) (x : TxSymbol) (sh : List Segment) : (b.emit x sh).t = b.t.driveShape sh := rfl
@[simp] theorem Bus.emit_main (b : Bus) (x : TxSymbol) (sh : List Segment) : (b.emit x sh).main = b.main := rfl
@[simp] theorem Bus.emit_subs (b : Bus) (x : TxSymbol) (sh : List Segment) : (b.emit x sh).subs = b.subs := rfl
@[simp] theorem Bus.emit_wireTx (b : Bus) (x : TxSymbol) (sh : List Segment) : (b.emit x sh).wireTx = b.wireTx ++ [x] := rfl
@[simp] theorem Bus.emit_raised (b : Bus) (x : TxSymbol) (sh : List Segment) : (b.emit x sh).raised = b.raised := rfl
@[simp] theorem Bus.emit_env (b : Bus) (x : TxSymbol) (sh : List Segment) : (b.emit x sh).env = b.env := rfl
@[simp] theorem Bus.emit_windowEnd (b : Bus) (x : TxSymbol) (sh : List Segment) : (b.emit x sh).windowEnd = b.windowEnd := rfl

@[simp] theorem Bus.disconnectSubs_t (b : Bus) : (b.disconnectSubs).t = b.t := rfl
@[simp] theorem Bus.disconnectSubs_main (b : Bus) : (b.disconnectSubs).main = b.main := rfl
@[simp] theorem Bus.disconnectSubs_subs (b : Bus) : (b.disconnectSubs).subs = b.subs.map (Node.setConnected false) := rfl
@[simp] theorem Bus.disconnectSubs_wireTx (b : Bus) : (b.disconnectSubs).wireTx = b.wireTx := rfl
@[simp] theorem Bus.disconnectSubs_raised (b : Bus) : (b.disconnectSubs).raised = b.raised := rfl
@[simp] theorem Bus.disconnectSubs_env (b : Bus) : (b.disconnectSubs).env = b.env := rfl
@[simp] theorem Bus.disconnectSubs_windowEnd (b : Bus) : (b.disconnectSubs).windowEnd = b.windowEnd := rfl

@[simp] theorem Transport.accept_hostAddr (t : Transport) (p : Params) (t1 : Nat) (cmd rcp : Byte) (pl : List Word) (len : Byte) (e : Bool) (to' : Word) : (t.accept p t1 cmd rcp pl len e to').hostAddr = t.hostAddr := rfl
@[simp] theorem Transport.accept_wb (t : Transport) (p : Params) (t1 : Nat) (cmd rcp : Byte) (pl : List Word) (len : Byte) (e : Bool) (to' : Word) : (t.accept p t1 cmd rcp pl len e to').wb = writeCells t.wb 0 (frameBytes p.hdrLayout cmd t.hostAddr rcp pl len) := rfl
@[simp] theorem Transport.accept_wbLen (t : Transport) (p : Params) (t1 : Nat) (cmd rcp : Byte) (pl : List Word) (len : Byte) (e : Bool) (to' : Word) : (t.accept p t1 cmd rcp pl len e to').wbLen = frameSize len.toNat := rfl
@[simp] theorem Transport.accept_rb (t : Transport) (p : Params) (t1 : Nat) (cmd rcp : Byte) (pl : List Word) (len : Byte) (e : Bool) (to' : Word) : (t.accept p t1 cmd rcp pl len e to').rb = t.rb := rfl
@[simp] theorem Transport.accept_rbCount (t : Transport) (p : Params) (t1 : Nat) (cmd rcp : Byte) (pl : List Word) (len : Byte) (e : Bool) (to' : Word) : (t.accept p t1 cmd rcp pl len e to').rbCount = t.rbCount := rfl
@[simp] theorem Transport.accept_lv (t : Transport) (p : Params) (t1 : Nat) (cmd rcp : Byte) (pl : List Word) (len : Byte) (e : Bool) (to' : Word) : (t.accept p t1 cmd rcp pl len e to').lv = t.lv := rfl
@[simp] theorem Transport.accept_lvLen (t : Transport) (p : Params) (t1 : Nat) (cmd rcp : Byte) (pl : List Word) (len : Byte) (e : Bool) (to' : Word) : (t.accept p t1 cmd rcp pl len e to').lvLen = t.lvLen := rfl
@[simp] theorem Transport.accept_lvNew (t : Transport) (p : Params) (t1 : Nat) (cmd rcp : Byte) (pl : List Word) (len : Byte) (e : Bool) (to' : Word) : (t.accept p t1 cmd rcp pl len e to').lvNew = t.lvNew := rfl
@[simp] theorem Transport.accept_writeBusy (t : Transport) (p : Params) (t1 : Nat) (cmd rcp : Byte) (pl : List Word) (len : Byte) (e : Bool) (to' : Word) : (t.accept p t1 cmd rcp pl len e to').writeBusy = true := rfl
@[simp] theorem Transport.accept_readBusy (t : Transport) (p : Params) (t1 : Nat) (cmd rcp : Byte) (pl : List Word) (len : Byte) (e : Bool) (to' : Word) : (t.accept p t1 cmd rcp pl len e to').readBusy = t.readBusy := rfl
@[simp] theorem Transport.accept_deadline (t : Transport) (p : Params) (t1 : Nat) (cmd rcp : Byte) (pl : List Word) (len : Byte) (e : Bool) (to' : Word) : (t.accept p t1 cmd rcp pl len e to').deadline = t1 + writeTimeout p len := rfl
@[simp] theorem Transport.accept_expectResponse (t : Transport) (p : Params) (t1 : Nat) (cmd rcp : Byte) (pl : List Word) (len : Byte) (e : Bool) (to' : Word) : (t.accept p t1 cmd rcp pl len e to').expectResponse = e := rfl
@[simp] theorem Transport.accept_readTimeout (t : Transport) (p : Params) (t1 : Nat) (cmd rcp : Byte) (pl : List Word) (len : Byte) (e : Bool) (to' : Word) : (t.accept p t1 cmd rcp pl len e to').readTimeout = to' := rfl
@[simp] theorem Transport.accept_txPhase (t : Transport) (p : Params) (t1 : Nat) (cmd rcp : Byte) (pl : List Word) (len : Byte) (e : Bool) (to' : Word) : (t.accept p t1 cmd rcp pl len e to').txPhase = .start := rfl
@[simp] theorem Transport.accept_txBit (t : Transport) (p : Params) (t1 : Nat) (cmd rcp : Byte) (pl : List Word) (len : Byte) (e : Bool) (to' : Word) : (t.accept p t1 cmd rcp pl len e to').txBit = 0 := rfl
@[simp] theorem Transport.accept_driveA (t : Transport) (p : Params) (t1 : Nat) (cmd rcp : Byte) (pl : List Word) (len : Byte) (e : Bool) (to' : Word) : (t.accept p t1 cmd rcp pl len e to').driveA = t.driveA := rfl
@[simp] theorem Transport.accept_driveB (t : Transport) (p : Params) (t1 : Nat) (cmd rcp : Byte) (pl : List Word) (len : Byte) (e : Bool) (to' : Word) : (t.accept p t1 cmd rcp pl len e to').driveB = t.driveB := rfl
@[simp] theorem Transport.accept_rxPhase (t : Transport) (p : Params) (t1 : Nat) (cmd rcp : Byte) (pl : List Word) (len : Byte) (e : Bool) (to' : Word) : (t.accept p t1 cmd rcp pl len e to').rxPhase = t.rxPhase := rfl
@[simp] theorem Transport.accept_rxShift (t : Transport) (p : Params) (t1 : Nat) (cmd rcp : Byte) (pl : List Word) (len : Byte) (e : Bool) (to' : Word) : (t.accept p t1 cmd rcp pl len e to').rxShift = t.rxShift := rfl
@[simp] theorem Transport.accept_rxBitCnt (t : Transport) (p : Params) (t1 : Nat) (cmd rcp : Byte) (pl : List Word) (len : Byte) (e : Bool) (to' : Word) : (t.accept p t1 cmd rcp pl len e to').rxBitCnt = t.rxBitCnt := rfl
@[simp] theorem Transport.accept_rxCrc (t : Transport) (p : Params) (t1 : Nat) (cmd rcp : Byte) (pl : List Word) (len : Byte) (e : Bool) (to' : Word) : (t.accept p t1 cmd rcp pl len e to').rxCrc = t.rxCrc := rfl
@[simp] theorem Transport.accept_rxOverflow (t : Transport) (p : Params) (t1 : Nat) (cmd rcp : Byte) (pl : List Word) (len : Byte) (e : Bool) (to' : Word) : (t.accept p t1 cmd rcp pl len e to').rxOverflow = t.rxOverflow := rfl
@[simp] theorem Transport.accept_rxBad (t : Transport) (p : Params) (t1 : Nat) (cmd rcp : Byte) (pl : List Word) (len : Byte) (e : Bool) (to' : Word) : (t.accept p t1 cmd rcp pl len e to').rxBad = t.rxBad := rfl

@[simp] theorem Transport.arm_hostAddr (t : Transport) (tc : Nat) : (t.arm tc).hostAddr = t.hostAddr := rfl
@[simp] theorem Transport.arm_wb (t : Transport) (tc : Nat) : (t.arm tc).wb = t.wb := rfl
@[simp] theorem Transport.arm_wbLen (t : Transport) (tc : Nat) : (t.arm tc).wbLen = t.wbLen := rfl
@[simp] theorem Transport.arm_rb (t : Transport) (tc : Nat) : (t.arm tc).rb = t.rb := rfl
@[simp] theorem Transport.arm_rbCount (t : Transport) (tc : Nat) : (t.arm tc).rbCount = 0 := rfl
@[simp] theorem Transport.arm_lv (t : Transport) (tc : Nat) : (t.arm tc).lv = t.lv := rfl
@[simp] theorem Transport.arm_lvLen (t : Transport) (tc : Nat) : (t.arm tc).lvLen = t.lvLen := rfl
@[simp] theorem Transport.arm_lvNew (t : Transport) (tc : Nat) : (t.arm tc).lvNew = t.lvNew := rfl
@[simp] theorem Transport.arm_writeBusy (t : Transport) (tc : Nat) : (t.arm tc).writeBusy = t.writeBusy := rfl
@[simp] theorem Transport.arm_readBusy (t : Transport) (tc : Nat) : (t.arm tc).readBusy = true := rfl
@[simp] theorem Transport.arm_deadline (t : Transport) (tc : Nat) : (t.arm tc).deadline = tc + t.readTimeout.toNat := rfl
@[simp] theorem Transport.arm_expectResponse (t : Transport) (tc : Nat) : (t.arm tc).expectResponse = t.expectResponse := rfl
@[simp] theorem Transport.arm_readTimeout (t : Transport) (tc : Nat) : (t.arm tc).readTimeout = t.readTimeout := rfl
@[simp] theorem Transport.arm_txPhase (t : Transport) (tc : Nat) : (t.arm tc).txPhase = t.txPhase := rfl
@[simp] theorem Transport.arm_txBit (t : Transport) (tc : Nat) : (t.arm tc).txBit = t.txBit := rfl
@[simp] theorem Transport.arm_driveA (t : Transport) (tc : Nat) : (t.arm tc).driveA = t.driveA := rfl
@[simp] theorem Transport.arm_driveB (t : Transport) (tc : Nat) : (t.arm tc).driveB = t.driveB := rfl
@[simp] theorem Transport.arm_rxPhase (t : Transport) (tc : Nat) : (t.arm tc).rxPhase = .waitStart := rfl
@[simp] theorem Transport.arm_rxShift (t : Transport) (tc : Nat) : (t.arm tc).rxShift = 0 := rfl
@[simp] theorem Transport.arm_rxBitCnt (t : Transport) (tc : Nat) : (t.arm tc).rxBitCnt = 0 := rfl
@[simp] theorem Transport.arm_rxCrc (t : Transport) (tc : Nat) : (t.arm tc).rxCrc = crcInit := rfl
@[simp] theorem Transport.arm_rxOverflow (t : Transport) (tc : Nat) : (t.arm tc).rxOverflow = false := rfl
@[simp] theorem Transport.arm_rxBad (t : Transport) (tc : Nat) : (t.arm tc).rxBad = false := rfl

@[simp] theorem Transport.publish_hostAddr (t : Transport) (p : ParsedFrame) : (t.publish p).hostAddr = t.hostAddr := rfl
@[simp] theorem Transport.publish_wb (t : Transport) (p : ParsedFrame) : (t.publish p).wb = t.wb := rfl
@[simp] theorem Transport.publish_wbLen (t : Transport) (p : ParsedFrame) : (t.publish p).wbLen = t.wbLen := rfl
@[simp] theorem Transport.publish_rb (t : Transport) (p : ParsedFrame) : (t.publish p).rb = t.rb := rfl
@[simp] theorem Transport.publish_rbCount (t : Transport) (p : ParsedFrame) : (t.publish p).rbCount = t.rbCount := rfl
@[simp] theorem Transport.publish_lv (t : Transport) (p : ParsedFrame) : (t.publish p).lv = writeCells t.lv 0 p.words := rfl
@[simp] theorem Transport.publish_lvLen (t : Transport) (p : ParsedFrame) : (t.publish p).lvLen = 1 + p.length.toNat := rfl
@[simp] theorem Transport.publish_lvNew (t : Transport) (p : ParsedFrame) : (t.publish p).lvNew = true := rfl
@[simp] theorem Transport.publish_writeBusy (t : Transport) (p : ParsedFrame) : (t.publish p).writeBusy = t.writeBusy := rfl
@[simp] theorem Transport.publish_readBusy (t : Transport) (p : ParsedFrame) : (t.publish p).readBusy = t.readBusy := rfl
@[simp] theorem Transport.publish_deadline (t : Transport) (p : ParsedFrame) : (t.publish p).deadline = t.deadline := rfl
@[simp] theorem Transport.publish_expectResponse (t : Transport) (p : ParsedFrame) : (t.publish p).expectResponse = t.expectResponse := rfl
@[simp] theorem Transport.publish_readTimeout (t : Transport) (p : ParsedFrame) : (t.publish p).readTimeout = t.readTimeout := rfl
@[simp] theorem Transport.publish_txPhase (t : Transport) (p : ParsedFrame) : (t.publish p).txPhase = t.txPhase := rfl
@[simp] theorem Transport.publish_txBit (t : Transport) (p : ParsedFrame) : (t.publish p).txBit = t.txBit := rfl
@[simp] theorem Transport.publish_driveA (t : Transport) (p : ParsedFrame) : (t.publish p).driveA = t.driveA := rfl
@[simp] theorem Transport.publish_driveB (t : Transport) (p : ParsedFrame) : (t.publish p).driveB = t.driveB := rfl
@[simp] theorem Transport.publish_rxPhase (t : Transport) (p : ParsedFrame) : (t.publish p).rxPhase = t.rxPhase := rfl
@[simp] theorem Transport.publish_rxShift (t : Transport) (p : ParsedFrame) : (t.publish p).rxShift = t.rxShift := rfl
@[simp] theorem Transport.publish_rxBitCnt (t : Transport) (p : ParsedFrame) : (t.publish p).rxBitCnt = t.rxBitCnt := rfl
@[simp] theorem Transport.publish_rxCrc (t : Transport) (p : ParsedFrame) : (t.publish p).rxCrc = t.rxCrc := rfl
@[simp] theorem Transport.publish_rxOverflow (t : Transport) (p : ParsedFrame) : (t.publish p).rxOverflow = t.rxOverflow := rfl
@[simp] theorem Transport.publish_rxBad (t : Transport) (p : ParsedFrame) : (t.publish p).rxBad = t.rxBad := rfl

@[simp] theorem Transport.abortWrite_hostAddr (t : Transport) : (t.abortWrite).hostAddr = t.hostAddr := rfl
@[simp] theorem Transport.abortWrite_wb (t : Transport) : (t.abortWrite).wb = t.wb := rfl
@[simp] theorem Transport.abortWrite_wbLen (t : Transport) : (t.abortWrite).wbLen = t.wbLen := rfl
@[simp] theorem Transport.abortWrite_rb (t : Transport) : (t.abortWrite).rb = t.rb := rfl
@[simp] theorem Transport.abortWrite_rbCount (t : Transport) : (t.abortWrite).rbCount = t.rbCount := rfl
@[simp] theorem Transport.abortWrite_lv (t : Transport) : (t.abortWrite).lv = t.lv := rfl
@[simp] theorem Transport.abortWrite_lvLen (t : Transport) : (t.abortWrite).lvLen = t.lvLen := rfl
@[simp] theorem Transport.abortWrite_lvNew (t : Transport) : (t.abortWrite).lvNew = t.lvNew := rfl
@[simp] theorem Transport.abortWrite_writeBusy (t : Transport) : (t.abortWrite).writeBusy = false := rfl
@[simp] theorem Transport.abortWrite_readBusy (t : Transport) : (t.abortWrite).readBusy = t.readBusy := rfl
@[simp] theorem Transport.abortWrite_deadline (t : Transport) : (t.abortWrite).deadline = t.deadline := rfl
@[simp] theorem Transport.abortWrite_expectResponse (t : Transport) : (t.abortWrite).expectResponse = false := rfl
@[simp] theorem Transport.abortWrite_readTimeout (t : Transport) : (t.abortWrite).readTimeout = t.readTimeout := rfl
@[simp] theorem Transport.abortWrite_txPhase (t : Transport) : (t.abortWrite).txPhase = .idle := rfl
@[simp] theorem Transport.abortWrite_txBit (t : Transport) : (t.abortWrite).txBit = t.txBit := rfl
@[simp] theorem Transport.abortWrite_driveA (t : Transport) : (t.abortWrite).driveA = .release := rfl
@[simp] theorem Transport.abortWrite_driveB (t : Transport) : (t.abortWrite).driveB = .release := rfl
@[simp] theorem Transport.abortWrite_rxPhase (t : Transport) : (t.abortWrite).rxPhase = t.rxPhase := rfl
@[simp] theorem Transport.abortWrite_rxShift (t : Transport) : (t.abortWrite).rxShift = t.rxShift := rfl
@[simp] theorem Transport.abortWrite_rxBitCnt (t : Transport) : (t.abortWrite).rxBitCnt = t.rxBitCnt := rfl
@[simp] theorem Transport.abortWrite_rxCrc (t : Transport) : (t.abortWrite).rxCrc = t.rxCrc := rfl
@[simp] theorem Transport.abortWrite_rxOverflow (t : Transport) : (t.abortWrite).rxOverflow = t.rxOverflow := rfl
@[simp] theorem Transport.abortWrite_rxBad (t : Transport) : (t.abortWrite).rxBad = t.rxBad := rfl

@[simp] theorem Transport.abortRead_hostAddr (t : Transport) : (t.abortRead).hostAddr = t.hostAddr := rfl
@[simp] theorem Transport.abortRead_wb (t : Transport) : (t.abortRead).wb = t.wb := rfl
@[simp] theorem Transport.abortRead_wbLen (t : Transport) : (t.abortRead).wbLen = t.wbLen := rfl
@[simp] theorem Transport.abortRead_rb (t : Transport) : (t.abortRead).rb = t.rb := rfl
@[simp] theorem Transport.abortRead_rbCount (t : Transport) : (t.abortRead).rbCount = t.rbCount := rfl
@[simp] theorem Transport.abortRead_lv (t : Transport) : (t.abortRead).lv = t.lv := rfl
@[simp] theorem Transport.abortRead_lvLen (t : Transport) : (t.abortRead).lvLen = t.lvLen := rfl
@[simp] theorem Transport.abortRead_lvNew (t : Transport) : (t.abortRead).lvNew = t.lvNew := rfl
@[simp] theorem Transport.abortRead_writeBusy (t : Transport) : (t.abortRead).writeBusy = t.writeBusy := rfl
@[simp] theorem Transport.abortRead_readBusy (t : Transport) : (t.abortRead).readBusy = false := rfl
@[simp] theorem Transport.abortRead_deadline (t : Transport) : (t.abortRead).deadline = t.deadline := rfl
@[simp] theorem Transport.abortRead_expectResponse (t : Transport) : (t.abortRead).expectResponse = t.expectResponse := rfl
@[simp] theorem Transport.abortRead_readTimeout (t : Transport) : (t.abortRead).readTimeout = t.readTimeout := rfl
@[simp] theorem Transport.abortRead_txPhase (t : Transport) : (t.abortRead).txPhase = t.txPhase := rfl
@[simp] theorem Transport.abortRead_txBit (t : Transport) : (t.abortRead).txBit = t.txBit := rfl
@[simp] theorem Transport.abortRead_driveA (t : Transport) : (t.abortRead).driveA = t.driveA := rfl
@[simp] theorem Transport.abortRead_driveB (t : Transport) : (t.abortRead).driveB = t.driveB := rfl
@[simp] theorem Transport.abortRead_rxPhase (t : Transport) : (t.abortRead).rxPhase = .off := rfl
@[simp] theorem Transport.abortRead_rxShift (t : Transport) : (t.abortRead).rxShift = t.rxShift := rfl
@[simp] theorem Transport.abortRead_rxBitCnt (t : Transport) : (t.abortRead).rxBitCnt = t.rxBitCnt := rfl
@[simp] theorem Transport.abortRead_rxCrc (t : Transport) : (t.abortRead).rxCrc = t.rxCrc := rfl
@[simp] theorem Transport.abortRead_rxOverflow (t : Transport) : (t.abortRead).rxOverflow = t.rxOverflow := rfl
@[simp] theorem Transport.abortRead_rxBad (t : Transport) : (t.abortRead).rxBad = t.rxBad := rfl

@[simp] theorem Node.emit_addr (n : Node) (cs : List CollabCall) : (n.emit cs).addr = n.addr := rfl
@[simp] theorem Node.emit_present (n : Node) (cs : List CollabCall) : (n.emit cs).present = n.present := rfl
@[simp] theorem Node.emit_nextProbe (n : Node) (cs : List CollabCall) : (n.emit cs).nextProbe = n.nextProbe := rfl
@[simp] theorem Node.emit_poller (n : Node) (cs : List CollabCall) : (n.emit cs).poller = n.poller := rfl
@[simp] theorem Node.emit_calls (n : Node) (cs : List CollabCall) : (n.emit cs).calls = n.calls ++ cs := rfl

@[simp] theorem Node.attach_addr (p : Params) (n : Node) : (n.attach p).addr = n.addr := rfl
@[simp] theorem Node.attach_present (p : Params) (n : Node) : (n.attach p).present = n.present := rfl
@[simp] theorem Node.attach_nextProbe (p : Params) (n : Node) : (n.attach p).nextProbe = n.nextProbe := rfl
@[simp] theorem Node.attach_attached (p : Params) (n : Node) : (n.attach p).poller.attached = true := rfl
@[simp] theorem Node.attach_cond (p : Params) (n : Node) : (n.attach p).poller.cond = neutralCondition p.condLayout := rfl
@[simp] theorem Node.attach_waiting (p : Params) (n : Node) : (n.attach p).poller.waiting = false := rfl
@[simp] theorem Node.attach_noData (p : Params) (n : Node) : (n.attach p).poller.noData = 0 := rfl
@[simp] theorem Node.attach_nextCheck (p : Params) (n : Node) : (n.attach p).poller.nextCheck = 0 := rfl
@[simp] theorem Node.attach_newData (p : Params) (n : Node) : (n.attach p).poller.newData = false := rfl
@[simp] theorem Node.attach_rxCmd (p : Params) (n : Node) : (n.attach p).poller.rxCmd = n.poller.rxCmd := rfl
@[simp] theorem Node.attach_rxLen (p : Params) (n : Node) : (n.attach p).poller.rxLen = n.poller.rxLen := rfl
@[simp] theorem Node.attach_rxW0 (p : Params) (n : Node) : (n.attach p).poller.rxW0 = n.poller.rxW0 := rfl
@[simp] theorem Node.attach_rxW1 (p : Params) (n : Node) : (n.attach p).poller.rxW1 = n.poller.rxW1 := rfl
@[simp] theorem Node.attach_calls (p : Params) (n : Node) : (n.attach p).calls = n.calls ++ [.updateControllerConnected true] := rfl

@[simp] theorem Node.detach_addr (n : Node) : (n.detach).addr = n.addr := rfl
@[simp] theorem Node.detach_present (n : Node) : (n.detach).present = n.present := rfl
@[simp] theorem Node.detach_nextProbe (n : Node) : (n.detach).nextProbe = n.nextProbe := rfl
@[simp] theorem Node.detach_attached (n : Node) : (n.detach).poller.attached = false := rfl
@[simp] theorem Node.detach_cond (n : Node) : (n.detach).poller.cond = n.poller.cond := rfl
@[simp] theorem Node.detach_waiting (n : Node) : (n.detach).poller.waiting = n.poller.waiting := rfl
@[simp] theorem Node.detach_noData (n : Node) : (n.detach).poller.noData = n.poller.noData := rfl
@[simp] theorem Node.detach_nextCheck (n : Node) : (n.detach).poller.nextCheck = n.poller.nextCheck := rfl
@[simp] theorem Node.detach_newData (n : Node) : (n.detach).poller.newData = false := rfl
@[simp] theorem Node.detach_rxCmd (n : Node) : (n.detach).poller.rxCmd = n.poller.rxCmd := rfl
@[simp] theorem Node.detach_rxLen (n : Node) : (n.detach).poller.rxLen = n.poller.rxLen := rfl
@[simp] theorem Node.detach_rxW0 (n : Node) : (n.detach).poller.rxW0 = n.poller.rxW0 := rfl
@[simp] theorem Node.detach_rxW1 (n : Node) : (n.detach).poller.rxW1 = n.poller.rxW1 := rfl
@[simp] theorem Node.detach_calls (n : Node) : (n.detach).calls = n.calls ++ [.updateControllerConnected false] := rfl

@[simp] theorem Node.latch_addr (len cmd : Byte) (pl : List Word) (n : Node) : (n.latch len cmd pl).addr = n.addr := rfl
@[simp] theorem Node.latch_present (len cmd : Byte) (pl : List Word) (n : Node) : (n.latch len cmd pl).present = n.present := rfl
@[simp] theorem Node.latch_nextProbe (len cmd : Byte) (pl : List Word) (n : Node) : (n.latch len cmd pl).nextProbe = n.nextProbe := rfl
@[simp] theorem Node.latch_attached (len cmd : Byte) (pl : List Word) (n : Node) : (n.latch len cmd pl).poller.attached = n.poller.attached := rfl
@[simp] theorem Node.latch_cond (len cmd : Byte) (pl : List Word) (n : Node) : (n.latch len cmd pl).poller.cond = n.poller.cond := rfl
@[simp] theorem Node.latch_waiting (len cmd : Byte) (pl : List Word) (n : Node) : (n.latch len cmd pl).poller.waiting = n.poller.waiting := rfl
@[simp] theorem Node.latch_noData (len cmd : Byte) (pl : List Word) (n : Node) : (n.latch len cmd pl).poller.noData = n.poller.noData := rfl
@[simp] theorem Node.latch_nextCheck (len cmd : Byte) (pl : List Word) (n : Node) : (n.latch len cmd pl).poller.nextCheck = n.poller.nextCheck := rfl
@[simp] theorem Node.latch_newData (len cmd : Byte) (pl : List Word) (n : Node) : (n.latch len cmd pl).poller.newData = true := rfl
@[simp] theorem Node.latch_rxCmd (len cmd : Byte) (pl : List Word) (n : Node) : (n.latch len cmd pl).poller.rxCmd = cmd := rfl
@[simp] theorem Node.latch_rxLen (len cmd : Byte) (pl : List Word) (n : Node) : (n.latch len cmd pl).poller.rxLen = len := rfl
@[simp] theorem Node.latch_rxW0 (len cmd : Byte) (pl : List Word) (n : Node) : (n.latch len cmd pl).poller.rxW0 = if 1 ≤ len.toNat then pl.headD 0 else 0 := rfl
@[simp] theorem Node.latch_rxW1 (len cmd : Byte) (pl : List Word) (n : Node) : (n.latch len cmd pl).poller.rxW1 = if 2 ≤ len.toNat then pl.getD 1 0 else 0 := rfl
@[simp] theorem Node.latch_calls (len cmd : Byte) (pl : List Word) (n : Node) : (n.latch len cmd pl).calls = n.calls := rfl

@[simp] theorem State.takeEntry_cfg (s : State) (e : Pending) (r : List Pending) : (s.takeEntry e r).cfg = s.cfg := rfl
@[simp] theorem State.takeEntry_now (s : State) (e : Pending) (r : List Pending) : (s.takeEntry e r).now = max s.now e.time := rfl
@[simp] theorem State.takeEntry_crc (s : State) (e : Pending) (r : List Pending) : (s.takeEntry e r).crc = s.crc := rfl
@[simp] theorem State.takeEntry_buses (s : State) (e : Pending) (r : List Pending) : (s.takeEntry e r).buses = s.buses := rfl
@[simp] theorem State.takeEntry_ret (s : State) (e : Pending) (r : List Pending) : (s.takeEntry e r).ret = s.ret := rfl
@[simp] theorem State.takeEntry_input (s : State) (e : Pending) (r : List Pending) : (s.takeEntry e r).input = r := rfl

@[simp] theorem State.withFetchWord_cfg (s : State) (nbits w : Nat) : (s.withFetchWord nbits w).cfg = s.cfg := rfl
@[simp] theorem State.withFetchWord_now (s : State) (nbits w : Nat) : (s.withFetchWord nbits w).now = s.now := rfl
@[simp] theorem State.withFetchWord_crc (s : State) (nbits w : Nat) : (s.withFetchWord nbits w).crc = s.crc := rfl
@[simp] theorem State.withFetchWord_buses (s : State) (nbits w : Nat) : (s.withFetchWord nbits w).buses = s.buses := rfl
@[simp] theorem State.withFetchWord_ret (s : State) (nbits w : Nat) : (s.withFetchWord nbits w).ret = s.ret := rfl
@[simp] theorem State.withFetchWord_input (s : State) (nbits w : Nat) : (s.withFetchWord nbits w).input = withTableWord s.input nbits w := rfl

/-- Replacing a node: what is read back, and what stays. -/
@[simp] theorem SubNodes.get_set_same (m : SubNodes) (i : Fin 5) (n : Node) : (m.set i n).get i = n := by
  fin_cases i <;> rfl

@[simp] theorem SubNodes.get_set_ne (m : SubNodes) {i j : Fin 5} (n : Node) (h : j ≠ i) :
    (m.set i n).get j = m.get j := by
  fin_cases i <;> fin_cases j <;> first | rfl | exact absurd rfl h

@[simp] theorem SubNodes.get_map (f : Node → Node) (m : SubNodes) (i : Fin 5) : (m.map f).get i = f (m.get i) := by
  fin_cases i <;> rfl

@[simp] theorem Bus.node_main (b : Bus) : b.node .main = b.main := rfl
@[simp] theorem Bus.node_sub (b : Bus) (i : Fin 5) : b.node (.sub i) = b.subs.get i := rfl

@[simp] theorem Bus.setNode_t (b : Bus) (id : NodeId) (n : Node) : (b.setNode id n).t = b.t := by cases id <;> rfl
@[simp] theorem Bus.setNode_wireTx (b : Bus) (id : NodeId) (n : Node) : (b.setNode id n).wireTx = b.wireTx := by
  cases id <;> rfl
@[simp] theorem Bus.setNode_raised (b : Bus) (id : NodeId) (n : Node) : (b.setNode id n).raised = b.raised := by
  cases id <;> rfl
@[simp] theorem Bus.setNode_env (b : Bus) (id : NodeId) (n : Node) : (b.setNode id n).env = b.env := by
  cases id <;> rfl
@[simp] theorem Bus.setNode_windowEnd (b : Bus) (id : NodeId) (n : Node) : (b.setNode id n).windowEnd = b.windowEnd := by
  cases id <;> rfl

theorem Bus.node_setNode_same (b : Bus) (id : NodeId) (n : Node) : (b.setNode id n).node id = n := by
  cases id <;> simp [Bus.setNode]

theorem Bus.node_setNode_ne (b : Bus) {id id' : NodeId} (n : Node) (h : id' ≠ id) :
    (b.setNode id n).node id' = b.node id' := by
  cases id <;> cases id' <;> simp_all [Bus.setNode]

/-- Reading a node after a node was replaced. -/
theorem Bus.node_setNode (b : Bus) (id id' : NodeId) (n : Node) :
    (b.setNode id n).node id' = if id' = id then n else b.node id' := by
  split
  · next h => subst h; exact b.node_setNode_same _ n
  · next h => exact b.node_setNode_ne n h

/-- Reading a node after a node was changed. -/
theorem Bus.node_updNode (b : Bus) (id id' : NodeId) (f : Node → Node) :
    (b.updNode id f).node id' = if id' = id then f (b.node id) else b.node id' := b.node_setNode id id' _

@[simp] theorem Bus.updNode_t (b : Bus) (id : NodeId) (f : Node → Node) : (b.updNode id f).t = b.t := b.setNode_t _ _
@[simp] theorem Bus.updNode_wireTx (b : Bus) (id : NodeId) (f : Node → Node) : (b.updNode id f).wireTx = b.wireTx :=
  b.setNode_wireTx _ _
@[simp] theorem Bus.updNode_raised (b : Bus) (id : NodeId) (f : Node → Node) : (b.updNode id f).raised = b.raised :=
  b.setNode_raised _ _
@[simp] theorem Bus.updNode_env (b : Bus) (id : NodeId) (f : Node → Node) : (b.updNode id f).env = b.env :=
  b.setNode_env _ _
@[simp] theorem Bus.updNode_windowEnd (b : Bus) (id : NodeId) (f : Node → Node) :
    (b.updNode id f).windowEnd = b.windowEnd := b.setNode_windowEnd _ _

@[simp] theorem Bus.node_raise (b : Bus) (c : Cond) (id : NodeId) : (b.raise c).node id = b.node id := by
  cases id <;> rfl

@[simp] theorem Bus.node_emit (b : Bus) (x : TxSymbol) (sh : List Segment) (id : NodeId) :
    (b.emit x sh).node id = b.node id := by
  cases id <;> rfl

/-- What one node becomes when its presence is set (R240). -/
theorem Bus.node_setConnected (b : Bus) (id id' : NodeId) (st : Bool) :
    (b.setConnected id st).node id' =
      if id' = id ∨ (id = .main ∧ st = false) then (b.node id').setConnected st else b.node id' := by
  cases id <;> cases st <;> cases id' <;> simp [Bus.setConnected, Bus.updNode, Bus.setNode, Bus.disconnectSubs]
  all_goals split
  all_goals simp_all

@[simp] theorem Bus.setConnected_t (b : Bus) (id : NodeId) (st : Bool) : (b.setConnected id st).t = b.t := by
  cases id <;> cases st <;> rfl
@[simp] theorem Bus.setConnected_wireTx (b : Bus) (id : NodeId) (st : Bool) :
    (b.setConnected id st).wireTx = b.wireTx := by
  cases id <;> cases st <;> rfl
@[simp] theorem Bus.setConnected_raised (b : Bus) (id : NodeId) (st : Bool) :
    (b.setConnected id st).raised = b.raised := by
  cases id <;> cases st <;> rfl
@[simp] theorem Bus.setConnected_env (b : Bus) (id : NodeId) (st : Bool) : (b.setConnected id st).env = b.env := by
  cases id <;> cases st <;> rfl
@[simp] theorem Bus.setConnected_windowEnd (b : Bus) (id : NodeId) (st : Bool) :
    (b.setConnected id st).windowEnd = b.windowEnd := by
  cases id <;> cases st <;> rfl

/-- A shape leaves everything of the transport but the two drives as it was. -/
theorem Transport.driveShape_eq (t : Transport) (sh : List Segment) :
    t.driveShape sh = { t with driveA := (t.driveShape sh).driveA, driveB := (t.driveShape sh).driveB } := by
  unfold Transport.driveShape; split <;> rfl

@[simp] theorem Transport.driveShape_hostAddr (t : Transport) (sh : List Segment) : (t.driveShape sh).hostAddr = t.hostAddr := by
  unfold Transport.driveShape; split <;> rfl
@[simp] theorem Transport.driveShape_wb (t : Transport) (sh : List Segment) : (t.driveShape sh).wb = t.wb := by
  unfold Transport.driveShape; split <;> rfl
@[simp] theorem Transport.driveShape_wbLen (t : Transport) (sh : List Segment) : (t.driveShape sh).wbLen = t.wbLen := by
  unfold Transport.driveShape; split <;> rfl
@[simp] theorem Transport.driveShape_rb (t : Transport) (sh : List Segment) : (t.driveShape sh).rb = t.rb := by
  unfold Transport.driveShape; split <;> rfl
@[simp] theorem Transport.driveShape_rbCount (t : Transport) (sh : List Segment) : (t.driveShape sh).rbCount = t.rbCount := by
  unfold Transport.driveShape; split <;> rfl
@[simp] theorem Transport.driveShape_lv (t : Transport) (sh : List Segment) : (t.driveShape sh).lv = t.lv := by
  unfold Transport.driveShape; split <;> rfl
@[simp] theorem Transport.driveShape_lvLen (t : Transport) (sh : List Segment) : (t.driveShape sh).lvLen = t.lvLen := by
  unfold Transport.driveShape; split <;> rfl
@[simp] theorem Transport.driveShape_lvNew (t : Transport) (sh : List Segment) : (t.driveShape sh).lvNew = t.lvNew := by
  unfold Transport.driveShape; split <;> rfl
@[simp] theorem Transport.driveShape_writeBusy (t : Transport) (sh : List Segment) : (t.driveShape sh).writeBusy = t.writeBusy := by
  unfold Transport.driveShape; split <;> rfl
@[simp] theorem Transport.driveShape_readBusy (t : Transport) (sh : List Segment) : (t.driveShape sh).readBusy = t.readBusy := by
  unfold Transport.driveShape; split <;> rfl
@[simp] theorem Transport.driveShape_deadline (t : Transport) (sh : List Segment) : (t.driveShape sh).deadline = t.deadline := by
  unfold Transport.driveShape; split <;> rfl
@[simp] theorem Transport.driveShape_expectResponse (t : Transport) (sh : List Segment) : (t.driveShape sh).expectResponse = t.expectResponse := by
  unfold Transport.driveShape; split <;> rfl
@[simp] theorem Transport.driveShape_readTimeout (t : Transport) (sh : List Segment) : (t.driveShape sh).readTimeout = t.readTimeout := by
  unfold Transport.driveShape; split <;> rfl
@[simp] theorem Transport.driveShape_txPhase (t : Transport) (sh : List Segment) : (t.driveShape sh).txPhase = t.txPhase := by
  unfold Transport.driveShape; split <;> rfl
@[simp] theorem Transport.driveShape_txBit (t : Transport) (sh : List Segment) : (t.driveShape sh).txBit = t.txBit := by
  unfold Transport.driveShape; split <;> rfl
@[simp] theorem Transport.driveShape_rxPhase (t : Transport) (sh : List Segment) : (t.driveShape sh).rxPhase = t.rxPhase := by
  unfold Transport.driveShape; split <;> rfl
@[simp] theorem Transport.driveShape_rxShift (t : Transport) (sh : List Segment) : (t.driveShape sh).rxShift = t.rxShift := by
  unfold Transport.driveShape; split <;> rfl
@[simp] theorem Transport.driveShape_rxBitCnt (t : Transport) (sh : List Segment) : (t.driveShape sh).rxBitCnt = t.rxBitCnt := by
  unfold Transport.driveShape; split <;> rfl
@[simp] theorem Transport.driveShape_rxCrc (t : Transport) (sh : List Segment) : (t.driveShape sh).rxCrc = t.rxCrc := by
  unfold Transport.driveShape; split <;> rfl
@[simp] theorem Transport.driveShape_rxOverflow (t : Transport) (sh : List Segment) : (t.driveShape sh).rxOverflow = t.rxOverflow := by
  unfold Transport.driveShape; split <;> rfl
@[simp] theorem Transport.driveShape_rxBad (t : Transport) (sh : List Segment) : (t.driveShape sh).rxBad = t.rxBad := by
  unfold Transport.driveShape; split <;> rfl

/-! ## A reception killed (R184) -/

@[simp] theorem Transport.kill_hostAddr (t : Transport) : (t.kill).hostAddr = t.hostAddr := rfl
@[simp] theorem Transport.kill_wb (t : Transport) : (t.kill).wb = t.wb := rfl
@[simp] theorem Transport.kill_wbLen (t : Transport) : (t.kill).wbLen = t.wbLen := rfl
@[simp] theorem Transport.kill_rb (t : Transport) : (t.kill).rb = t.rb := rfl
@[simp] theorem Transport.kill_rbCount (t : Transport) : (t.kill).rbCount = t.rbCount := rfl
@[simp] theorem Transport.kill_lv (t : Transport) : (t.kill).lv = t.lv := rfl
@[simp] theorem Transport.kill_lvLen (t : Transport) : (t.kill).lvLen = t.lvLen := rfl
@[simp] theorem Transport.kill_lvNew (t : Transport) : (t.kill).lvNew = t.lvNew := rfl
@[simp] theorem Transport.kill_writeBusy (t : Transport) : (t.kill).writeBusy = t.writeBusy := rfl
@[simp] theorem Transport.kill_readBusy (t : Transport) : (t.kill).readBusy = t.readBusy := rfl
@[simp] theorem Transport.kill_deadline (t : Transport) : (t.kill).deadline = t.deadline := rfl
@[simp] theorem Transport.kill_expectResponse (t : Transport) : (t.kill).expectResponse = t.expectResponse := rfl
@[simp] theorem Transport.kill_readTimeout (t : Transport) : (t.kill).readTimeout = t.readTimeout := rfl
@[simp] theorem Transport.kill_txPhase (t : Transport) : (t.kill).txPhase = t.txPhase := rfl
@[simp] theorem Transport.kill_txBit (t : Transport) : (t.kill).txBit = t.txBit := rfl
@[simp] theorem Transport.kill_driveA (t : Transport) : (t.kill).driveA = t.driveA := rfl
@[simp] theorem Transport.kill_driveB (t : Transport) : (t.kill).driveB = t.driveB := rfl
@[simp] theorem Transport.kill_rxPhase (t : Transport) : (t.kill).rxPhase = .dead := rfl
@[simp] theorem Transport.kill_rxShift (t : Transport) : (t.kill).rxShift = t.rxShift := rfl
@[simp] theorem Transport.kill_rxBitCnt (t : Transport) : (t.kill).rxBitCnt = t.rxBitCnt := rfl
@[simp] theorem Transport.kill_rxCrc (t : Transport) : (t.kill).rxCrc = t.rxCrc := rfl
@[simp] theorem Transport.kill_rxOverflow (t : Transport) : (t.kill).rxOverflow = t.rxOverflow := rfl
@[simp] theorem Transport.kill_rxBad (t : Transport) : (t.kill).rxBad = t.rxBad := rfl

end Sys2Proof.Machine
end

