-- ==== Sys2Proof/Laws/Memory.lean ====
section
/-! SUPPORT. The laws of the buffer memories: a read after a write, the canonical form kept by every write, and what reading a run of
elements answers. -/

namespace Sys2Proof.Machine

/-- A read after a write of one element. -/
theorem readCell_writeCell {α : Type} (m : List (Nat × α)) (a x : Nat) (v : α) :
    readCell (writeCell m a v) x = if x = a then some v else readCell m x := by
  induction m with
  | nil => simp [writeCell, readCell, eq_comm]
  | cons e rest ih =>
    obtain ⟨k, y⟩ := e
    rcases lt_trichotomy a k with h | h | h
    · simp only [writeCell, if_pos h, readCell]
      by_cases hx : x = a
      · simp [hx]
      · simp [hx, Ne.symm hx]
    · subst h
      simp only [writeCell, lt_irrefl, if_false, if_true, readCell]
      by_cases hx : x = a
      · simp [hx]
      · simp [hx, Ne.symm hx]
    · simp only [writeCell, if_neg (Nat.lt_asymm h), if_neg (Nat.ne_of_gt h), readCell, ih]
      by_cases hx : x = a
      · simp [hx, Nat.ne_of_lt h]
      · simp [hx]

/-- A read after a write of consecutive elements. -/
theorem readCell_writeCells {α : Type} (vs : List α) :
    ∀ (m : List (Nat × α)) (a x : Nat), readCell (writeCells m a vs) x =
      if a ≤ x ∧ x < a + vs.length then vs[x - a]? else readCell m x := by
  induction vs with
  | nil => intro m a x; simp [writeCells, show ¬ (a ≤ x ∧ x < a) by omega]
  | cons v vs ih =>
    intro m a x
    simp only [writeCells, ih, readCell_writeCell, List.length_cons]
    by_cases h1 : a + 1 ≤ x ∧ x < a + 1 + vs.length
    · rw [if_pos h1, if_pos (by omega), show x - a = (x - (a + 1)) + 1 by omega, List.getElem?_cons_succ]
    · rw [if_neg h1]
      by_cases h2 : x = a
      · subst h2; simp
      · rw [if_neg h2, if_neg (by omega)]

/-- The canonical form says that the first address is below the size. -/
theorem cellsWf_head {α : Type} {size k : Nat} {v : α} {rest : List (Nat × α)} (h : cellsWf size ((k, v) :: rest) = true) :
    k < size := by
  induction rest generalizing k v with
  | nil => simpa [cellsWf] using h
  | cons e rest ih =>
    obtain ⟨k', v'⟩ := e
    simp only [cellsWf, Bool.and_eq_true, decide_eq_true_eq] at h
    exact lt_trans h.1 (ih h.2)

/-- The canonical form of a list, cut after its first entry. -/
theorem cellsWf_cons {α : Type} {size k : Nat} {v : α} {rest : List (Nat × α)} :
    cellsWf size ((k, v) :: rest) = true ↔
      k < size ∧ (∀ e ∈ rest.head?, k < e.1) ∧ cellsWf size rest = true := by
  cases rest with
  | nil => simp [cellsWf]
  | cons e rest =>
    obtain ⟨k', v'⟩ := e
    simp only [cellsWf, Bool.and_eq_true, decide_eq_true_eq, List.head?_cons, Option.mem_def, Option.some.injEq,
      forall_eq']
    constructor
    · rintro ⟨h1, h2⟩; exact ⟨lt_trans h1 (cellsWf_head h2), h1, h2⟩
    · rintro ⟨_, h1, h2⟩; exact ⟨h1, h2⟩

/-- The first address after a write is the smaller of the written one and the old first one. -/
theorem writeCell_head {α : Type} (m : List (Nat × α)) (a : Nat) (v : α) (e : Nat × α)
    (h : e ∈ (writeCell m a v).head?) : e.1 = a ∨ ∃ e' ∈ m.head?, e.1 = e'.1 := by
  cases m with
  | nil => simp [writeCell] at h; subst h; exact .inl rfl
  | cons e0 rest =>
    obtain ⟨k, y⟩ := e0
    simp only [writeCell] at h
    split at h
    · simp at h; subst h; exact .inl rfl
    · split at h
      · simp at h; subst h; exact .inl rfl
      · simp at h; subst h; exact .inr ⟨(k, y), by simp, rfl⟩

/-- A write inside the buffer keeps the canonical form. -/
theorem cellsWf_writeCell {α : Type} {size : Nat} (m : List (Nat × α)) (a : Nat) (v : α) (hm : cellsWf size m = true)
    (ha : a < size) : cellsWf size (writeCell m a v) = true := by
  induction m with
  | nil => simpa [writeCell, cellsWf] using ha
  | cons e rest ih =>
    obtain ⟨k, y⟩ := e
    simp only [writeCell]
    rw [cellsWf_cons] at hm
    split
    · next h => rw [cellsWf_cons]; exact ⟨ha, by simpa using h, cellsWf_cons.2 hm⟩
    · split
      · next _ h => subst h; exact cellsWf_cons.2 hm
      · next h1 h2 =>
        refine cellsWf_cons.2 ⟨hm.1, fun e he => ?_, ih hm.2.2⟩
        rcases writeCell_head rest a v e he with h | ⟨e', he', h⟩
        · omega
        · rw [h]; exact hm.2.1 e' he'

/-- Writes inside the buffer keep the canonical form. -/
theorem cellsWf_writeCells {α : Type} {size : Nat} (vs : List α) :
    ∀ (m : List (Nat × α)) (a : Nat), cellsWf size m = true → a + vs.length ≤ size →
      cellsWf size (writeCells m a vs) = true := by
  induction vs with
  | nil => intro m a hm _; exact hm
  | cons v vs ih =>
    intro m a hm ha
    simp only [List.length_cons] at ha
    exact ih _ _ (cellsWf_writeCell m a v hm (by omega)) (by omega)

/-- What reading a run of elements answers when all of them have been written. -/
theorem readCells_ok_iff {α : Type} (m : List (Nat × α)) (n : Nat) :
    ∀ (a : Nat) (vs : List α), readCells m a n = .ok vs ↔
      vs.length = n ∧ ∀ i, i < n → readCell m (a + i) = vs[i]? := by
  induction n with
  | zero =>
    intro a vs
    simp only [readCells, Except.ok.injEq]
    constructor
    · rintro rfl; simp
    · rintro ⟨h, _⟩; exact (List.length_eq_zero_iff.1 h).symm
  | succ n ih =>
    intro a vs
    constructor
    · intro h
      rw [readCells] at h
      split at h
      · cases h
      · next v hv =>
        split at h
        · next ws hw =>
          cases h
          obtain ⟨hl, hr⟩ := (ih _ _).1 hw
          refine ⟨by simp [hl], fun i hi => ?_⟩
          cases i with
          | zero => simpa using hv
          | succ i => rw [List.getElem?_cons_succ, ← hr i (by omega), show a + 1 + i = a + (i + 1) by omega]
        · cases h
    · rintro ⟨hl, hr⟩
      cases vs with
      | nil => simp at hl
      | cons v ws =>
        have h0 : readCell m a = some v := by simpa using hr 0 (by omega)
        have hw : readCells m (a + 1) n = .ok ws := by
          refine (ih _ _).2 ⟨by simpa using hl, fun i hi => ?_⟩
          rw [show a + 1 + i = a + (i + 1) by omega, hr (i + 1) (by omega), List.getElem?_cons_succ]
        simp [readCells, h0, hw]

/-- A run of written elements can be read. -/
theorem readCells_of_written {α : Type} (m : List (Nat × α)) (n : Nat) :
    ∀ a, (∀ i, i < n → (readCell m (a + i)).isSome = true) → ∃ vs, readCells m a n = .ok vs := by
  induction n with
  | zero => intro a _; exact ⟨[], rfl⟩
  | succ n ih =>
    intro a h
    obtain ⟨v, hv⟩ := Option.isSome_iff_exists.1 (by simpa using h 0 (by omega))
    obtain ⟨vs, hvs⟩ := ih (a + 1) (fun i hi => by
      rw [show a + 1 + i = a + (i + 1) by omega]; exact h (i + 1) (by omega))
    exact ⟨v :: vs, by simp [readCells, hv, hvs]⟩

/-- Appending one element to the run that is read from index 0. -/
theorem readCells_writeCell_end {α : Type} (m : List (Nat × α)) (n : Nat) (v : α) (vs : List α)
    (h : readCells m 0 n = .ok vs) : readCells (writeCell m n v) 0 (n + 1) = .ok (vs ++ [v]) := by
  obtain ⟨hl, hr⟩ := (readCells_ok_iff m n 0 vs).1 h
  refine (readCells_ok_iff _ _ _ _).2 ⟨by simp [hl], fun i hi => ?_⟩
  rw [Nat.zero_add, readCell_writeCell]
  by_cases hin : i = n
  · subst hin; simp [← hl]
  · rw [if_neg hin, List.getElem?_append_left (by omega), ← hr i (by omega), Nat.zero_add]

/-- The elements just written are read back. -/
theorem readCells_writeCells {α : Type} (m : List (Nat × α)) (vs : List α) :
    readCells (writeCells m 0 vs) 0 vs.length = .ok vs := by
  refine (readCells_ok_iff _ _ _ _).2 ⟨rfl, fun i hi => ?_⟩
  rw [readCell_writeCells, if_pos (by omega)]; simp

end Sys2Proof.Machine
end

