-- ==== Sys2Proof/Laws/Ops.lean ====
section
/-! SUPPORT. One lemma for each shared operation that says once everything it can do. -/

namespace Sys2Proof.Machine

/-! ## Steps on a bus -/

/-- The next state of an operation on a bus: only that bus and the returned value change. -/
theorem busOperation_next_iff {b : BusId} {s t : State} {f : Ctx → Bus → Except Refusal (Bus × Ret)} :
    busOperation b s f = .next t ↔
      ∃ bus bus' r, s.buses[b.val]? = some bus ∧ f (ctxOf s b) bus = .ok (bus', r) ∧
        t = { s with buses := s.buses.set b.val bus', ret := r } := by
  unfold busOperation
  cases hb : s.buses[b.val]? with
  | none => simp
  | some bus =>
    cases hf : f (ctxOf s b) bus with
    | error e => simp [hf]
    | ok p =>
      obtain ⟨bus', r⟩ := p
      simp [hf, eq_comm]

/-- The next state of an event or micro-step on a bus: only that bus changes. -/
theorem busEvent_next_iff {b : BusId} {s t : State} {f : Ctx → Bus → Except Refusal Bus} :
    busEvent b s f = .next t ↔
      ∃ bus bus', s.buses[b.val]? = some bus ∧ f (ctxOf s b) bus = .ok bus' ∧
        t = { s with buses := s.buses.set b.val bus' } := by
  unfold busEvent
  cases hb : s.buses[b.val]? with
  | none => simp
  | some bus => cases hf : f (ctxOf s b) bus with
    | error e => simp [hf]
    | ok bus' => simp [hf, eq_comm]

/-- An operation on a bus that is there and that completes. -/
theorem busOperation_of_ok {b : BusId} {s : State} {f : Ctx → Bus → Except Refusal (Bus × Ret)} {bus bus' : Bus} {r : Ret}
    (hb : s.buses[b.val]? = some bus) (hf : f (ctxOf s b) bus = .ok (bus', r)) :
    busOperation b s f = .next { s with buses := s.buses.set b.val bus', ret := r } :=
  busOperation_next_iff.2 ⟨bus, bus', r, hb, hf, rfl⟩

/-- An event or micro-step on a bus that is there and that completes. -/
theorem busEvent_of_ok {b : BusId} {s : State} {f : Ctx → Bus → Except Refusal Bus} {bus bus' : Bus}
    (hb : s.buses[b.val]? = some bus) (hf : f (ctxOf s b) bus = .ok bus') :
    busEvent b s f = .next { s with buses := s.buses.set b.val bus' } :=
  busEvent_next_iff.2 ⟨bus, bus', hb, hf, rfl⟩

/-- Reading a bus after a bus that was there was replaced. -/
theorem getElem?_set_bus {l : List Bus} {b b' : Nat} {bus bus' : Bus} (h : l[b]? = some bus) :
    (l.set b bus')[b']? = if b' = b then some bus' else l[b']? := by
  rw [List.getElem?_set]
  have hb : b < l.length := (List.getElem?_eq_some_iff.1 h).1
  by_cases hbb : b' = b
  · subst hbb; simp [hb]
  · rw [if_neg hbb, if_neg (fun h' => hbb h'.symm)]

/-! ## WRITE -/

/-- Everything a WRITE can do to its bus (R204, R205). -/
theorem Bus.write_cases (c : Ctx) (bus : Bus) (cmd rcp : Byte) (pl : List Word) (len : Byte) (e : Bool) (rt : Word) :
    (bus.t.busy = true ∧ bus.write c cmd rcp pl len e rt = (bus.raise .busBusy, false)) ∨
    (bus.t.busy = false ∧
      bus.linesIdleDuring (bus.instant c.now) (bus.instant c.now + c.cfg.openLineCheckUs) = false ∧
      bus.write c cmd rcp pl len e rt =
        (({ bus with windowEnd := bus.instant c.now + c.cfg.openLineCheckUs } : Bus).raise .lineNotIdle, false)) ∨
    (bus.t.busy = false ∧
      bus.linesIdleDuring (bus.instant c.now) (bus.instant c.now + c.cfg.openLineCheckUs) = true ∧
      bus.write c cmd rcp pl len e rt =
        ({ bus with
            t := bus.t.accept c.cfg (bus.instant c.now + c.cfg.openLineCheckUs) cmd rcp pl len e rt
            windowEnd := bus.instant c.now + c.cfg.openLineCheckUs }, true)) := by
  unfold Bus.write
  cases hb : bus.t.busy
  · cases hl : bus.linesIdleDuring (bus.instant c.now) (bus.instant c.now + c.cfg.openLineCheckUs)
    · exact .inr (.inl ⟨rfl, rfl, by simp [hl]⟩)
    · exact .inr (.inr ⟨rfl, rfl, by simp [hl]⟩)
  · exact .inl ⟨rfl, by simp⟩

/-- A WRITE changes no node of its bus. -/
theorem Bus.write_node (c : Ctx) (bus : Bus) (cmd rcp : Byte) (pl : List Word) (len : Byte) (e : Bool) (rt : Word)
    (id : NodeId) : (bus.write c cmd rcp pl len e rt).1.node id = bus.node id := by
  rcases bus.write_cases c cmd rcp pl len e rt with ⟨_, h⟩ | ⟨_, _, h⟩ | ⟨_, _, h⟩ <;> rw [h] <;> cases id <;> rfl

/-! ## Completion events -/

/-- Everything TXCOMPLETE can do (R210). -/
theorem Bus.takeTxComplete_ok {c : Ctx} {bus bus' : Bus} (h : bus.takeTxComplete c = .ok bus') :
    (bus.t.writeBusy = true ∧ bus.t.txPhase = .idle) ∧
      ((bus.t.expectResponse = true ∧
          bus' = { bus with t := ({ bus.t with writeBusy := false } : Transport).arm (bus.instant c.now) }) ∨
        (bus.t.expectResponse = false ∧ bus' = { bus with t := { bus.t with writeBusy := false } })) := by
  unfold Bus.takeTxComplete at h
  split at h
  · next hw =>
    split at h <;> cases h
    next hp =>
    refine ⟨⟨hw, hp⟩, ?_⟩
    cases he : bus.t.expectResponse
    · exact .inr ⟨rfl, by simp [he]⟩
    · exact .inl ⟨rfl, by simp [he]⟩
  · cases h

/-- Everything RXCOMPLETE can make of the bytes of a well-sized reception (R212): a label, or a published frame. -/
theorem Bus.judge_cases (c : Ctx) (bus : Bus) (bytes : List Byte) (count : Nat) :
    bus.judge c bytes count = bus.raise .malformed ∨ bus.judge c bytes count = bus.raise .crcMismatch ∨
      ∃ p, crcValid bytes count = true ∧
        parseFrame c.cfg.hdrLayout bytes count = some p ∧
        bus.judge c bytes count = { bus with t := bus.t.publish p } := by
  unfold Bus.judge
  cases h2 : crcValid bytes count
  · exact .inr (.inl (by simp))
  · cases h3 : parseFrame c.cfg.hdrLayout bytes count with
    | none => exact .inl (by simp)
    | some p => exact .inr (.inr ⟨p, rfl, rfl, by simp⟩)

/-- Everything RXCOMPLETE can do (R212). -/
theorem Bus.takeRxComplete_ok {c : Ctx} {bus bus' : Bus} {count : Nat} (h : bus.takeRxComplete c count = .ok bus') :
    (bus.t.readBusy = true ∧ bus.t.rxPhase = .off ∧ count = bus.t.rbCount) ∧
      ((bus.t.rxBad = true ∨ bus.t.rxOverflow = true ∨ frameSizeOk count = false) ∧
          bus' = ({ bus with t := { bus.t with readBusy := false } } : Bus).raise .malformed ∨
        (bus.t.rxBad = false ∧ bus.t.rxOverflow = false ∧ frameSizeOk count = true) ∧ count ≤ bufBytes ∧
          ∃ bytes, readCells bus.t.rb 0 count = .ok bytes ∧
            bus' = ({ bus with t := { bus.t with readBusy := false } } : Bus).judge c bytes count) := by
  unfold Bus.takeRxComplete at h
  cases hr : bus.t.readBusy
  · simp [hr] at h
  · simp only [hr, if_true] at h
    split at h
    · cases h
    · next hp =>
      push Not at hp
      refine ⟨⟨rfl, hp⟩, ?_⟩
      split at h
      · next hl => cases h; exact .inl ⟨by simpa [or_assoc] using hl, rfl⟩
      · next hl =>
        split at h
        · cases h
        · next hc =>
          split at h
          · cases h
          · next bytes hb => cases h; exact .inr ⟨by simpa [and_assoc] using hl, by omega, bytes, hb, rfl⟩

/-- Everything GETREADDATA can do (R207). -/
theorem Bus.getReadData_ok {bus bus' : Bus} {words : List Word} {length : Nat} {isNew : Bool}
    (h : bus.getReadData = .ok (bus', words, length, isNew)) :
    readCells bus.t.lv 0 bus.t.lvLen = .ok words ∧ length = bus.t.lvLen ∧ isNew = bus.t.lvNew ∧
      bus' = { bus with t := { bus.t with lvNew := false } } := by
  unfold Bus.getReadData at h
  split at h
  · cases h
  · next ws hw => cases h; exact ⟨hw, rfl, rfl, rfl⟩

/-! ## The receiver's enabling -/

/-- Everything a receiver micro-step can do before its own effect (R103, R175, R184). -/
theorem Bus.onSymbol_ok {bus bus' : Bus} {phase : RxPhase} {f : Bus → Except Refusal Bus}
    (h : bus.onSymbol phase f = .ok bus') :
    ((bus.t.rxPhase = .off ∨ bus.t.rxPhase = .dead) ∧ bus' = bus) ∨
      (bus.t.rxPhase ≠ .off ∧ bus.t.rxPhase ≠ .dead ∧ bus.t.rxPhase = phase ∧ f bus = .ok bus') := by
  unfold Bus.onSymbol at h
  split at h
  · next hp => cases h; exact .inl ⟨hp, rfl⟩
  · next hp =>
    split at h
    · next hq => exact .inr ⟨fun h' => hp (.inl h'), fun h' => hp (.inr h'), hq, h⟩
    · cases h

/-! ## The node layer -/

/-- Everything MAIN.DISPATCH can do (R246). -/
theorem Bus.dispatch_ok {c : Ctx} {bus bus' : Bus} {words : List Word} {handled : Bool}
    (h : bus.dispatch c words = .ok (bus', handled)) :
    ∃ hdr payload, words = hdr :: payload ∧
      ((bus' = bus.raise .unexpectedFrame ∧ handled = false) ∨
        ∃ id, playerOf (headerSender c.cfg.hdrLayout hdr) = c.player ∧
          bus.route (headerSender c.cfg.hdrLayout hdr) = some id ∧
          (headerLength c.cfg.hdrLayout hdr).toNat ≤ payload.length ∧
          (bus', handled) = bus.handleData c id (headerLength c.cfg.hdrLayout hdr)
            (headerCommand c.cfg.hdrLayout hdr) payload) := by
  cases words with
  | nil => simp [Bus.dispatch] at h
  | cons hdr payload =>
    refine ⟨hdr, payload, rfl, ?_⟩
    simp only [Bus.dispatch] at h
    split at h
    · cases h; exact .inl ⟨rfl, rfl⟩
    · next id hid =>
      split at hid
      · next hp =>
        split at h
        · cases h
        · next hl => exact .inr ⟨id, hp, hid, by omega, (Except.ok.inj h).symm⟩
      · cases hid

/-- Everything part (1) of NODE.TASK can do (R236). -/
theorem Bus.consumeFrame_ok {c : Ctx} {bus bus' : Bus} (h : bus.consumeFrame c = .ok bus') :
    ∃ words, readCells bus.t.lv 0 bus.t.lvLen = .ok words ∧
      ((bus.t.lvNew = false ∧ bus' = { bus with t := { bus.t with lvNew := false } }) ∨
        (bus.t.lvNew = true ∧ bus.t.lvLen ≠ 0 ∧
          ∃ handled, ({ bus with t := { bus.t with lvNew := false } } : Bus).dispatch c words = .ok (bus', handled))) := by
  unfold Bus.consumeFrame at h
  split at h
  · cases h
  · next b words length isNew hg =>
    obtain ⟨hw, rfl, rfl, rfl⟩ := Bus.getReadData_ok hg
    refine ⟨words, hw, ?_⟩
    split at h
    · next hn =>
      split at h
      · cases h
      · next hl =>
        split at h
        · cases h
        · next b' handled hd => cases h; exact .inr ⟨hn, hl, handled, hd⟩
    · next hn => cases h; exact .inl ⟨by simpa using hn, rfl⟩

/-! ## Frames -/

/-- A frame of `len` payload words has `4 x (1 + len) + 1` bytes (R91). -/
theorem length_frameBytes (layout : HdrLayout) (cmd snd rcp : Byte) (pl : List Word) (len : Byte)
    (h : len.toNat ≤ pl.length) : (frameBytes layout cmd snd rcp pl len).length = frameSize len.toNat := by
  have hw : ∀ ws : List Word, (ws.flatMap wireBytes).length = 4 * ws.length := by
    intro ws
    induction ws with
    | nil => rfl
    | cons w ws ih => simp [List.flatMap_cons, ih, wireBytes]; omega
  simp [frameBytes, frameBody, hw, frameSize, h, wireBytes]; omega

/-- The CRC of appended bytes. -/
theorem crcOf_append (xs ys : List Byte) : crcOf (xs ++ ys) = crcOf xs ^^^ crcOf ys := by
  have key : ∀ (zs : List Byte) (c : Byte), zs.foldl crcStep c = c ^^^ crcOf zs := by
    intro zs
    induction zs with
    | nil => intro c; simp [crcOf, crcInit]
    | cons z zs ih =>
      intro c
      rw [List.foldl_cons, ih, show crcOf (z :: zs) = zs.foldl crcStep (crcStep crcInit z) from rfl, ih]
      simp [crcStep, crcInit, BitVec.xor_assoc]
  rw [crcOf, List.foldl_append, key]; rfl

/-- The CRC of one byte. -/
@[simp] theorem crcOf_singleton (x : Byte) : crcOf [x] = x := by simp [crcOf, crcStep, crcInit]

/-- Taking the words out of their wire bytes (R63). -/
theorem wordsOfWire_wireBytes (ws : List Word) : wordsOfWire (ws.flatMap wireBytes) = ws := by
  induction ws with
  | nil => rfl
  | cons w ws ih =>
    simp only [List.flatMap_cons, wireBytes, List.cons_append, List.nil_append, wordsOfWire, ih, List.cons.injEq,
      and_true]
    ext i hi
    simp only [BitVec.getElem_append, BitVec.getElem_extractLsb']
    split
    · simp [BitVec.getLsbD_eq_getElem hi]
    · split
      · rw [← BitVec.getLsbD_eq_getElem hi]; congr 1; omega
      · split
        · rw [← BitVec.getLsbD_eq_getElem hi]; congr 1; omega
        · rw [← BitVec.getLsbD_eq_getElem hi]; congr 1; omega

end Sys2Proof.Machine
end

