-- ==== Sys2Proof/Laws/Exec.lean ====
section
/-! SUPPORT. What `exec` is for each step that acts on a bus, as one shared operation, so that no later proof unfolds `exec`; and running
several steps. -/

namespace Sys2Proof.Machine

/-! ## The context of a bus -/

@[simp] theorem ctxOf_cfg (s : State) (b : BusId) : (ctxOf s b).cfg = s.cfg := rfl
@[simp] theorem ctxOf_now (s : State) (b : BusId) : (ctxOf s b).now = s.now := rfl
@[simp] theorem ctxOf_player (s : State) (b : BusId) : (ctxOf s b).player = playerOfBus s.cfg b.val := rfl

/-- The context is the parameters' and the clock's alone. -/
theorem ctxOf_congr {s t : State} (b : BusId) (hc : t.cfg = s.cfg) (hn : t.now = s.now) : ctxOf t b = ctxOf s b := by
  simp [ctxOf, hc, hn]

/-! ## Operations that stop, and steps that change nothing -/

/-- An operation on a bus that is there and that stops. -/
theorem busOperation_of_error {b : BusId} {s : State} {f : Ctx → Bus → Except Refusal (Bus × Ret)} {bus : Bus} {e : Refusal}
    (hb : s.buses[b.val]? = some bus) (hf : f (ctxOf s b) bus = .error e) : busOperation b s f = .refused e := by
  simp [busOperation, hb, hf]

/-- An event or micro-step on a bus that is there and that stops. -/
theorem busEvent_of_error {b : BusId} {s : State} {f : Ctx → Bus → Except Refusal Bus} {bus : Bus} {e : Refusal}
    (hb : s.buses[b.val]? = some bus) (hf : f (ctxOf s b) bus = .error e) : busEvent b s f = .refused e := by
  simp [busEvent, hb, hf]

/-- Putting a bus back where it was. -/
theorem set_bus_self {s : State} {b : BusId} {bus : Bus} (hb : s.buses[b.val]? = some bus) :
    s.buses.set b.val bus = s.buses := by
  apply List.ext_getElem?
  intro i
  rw [getElem?_set_bus hb]
  split_ifs with h
  · rw [h, hb]
  · rfl

/-- An event that leaves its bus as it was leaves the state as it was. -/
theorem busEvent_of_same {b : BusId} {s : State} {f : Ctx → Bus → Except Refusal Bus} {bus : Bus}
    (hb : s.buses[b.val]? = some bus) (hf : f (ctxOf s b) bus = .ok bus) : busEvent b s f = .next s := by
  rw [busEvent_of_ok hb hf, set_bus_self hb]

/-! ## The steps on a bus -/

theorem exec_write (b : BusId) (cmd rcp : Byte) (pl : List Word) (len : Byte) (e : Bool) (rt : Word) (s : State) :
    exec (.write b cmd rcp pl len e rt) s = busOperation b s fun c bus =>
      if pl.length < len.toNat then .error .arrayTooShort
      else .ok ((bus.write c cmd rcp pl len e rt).1, .bool (bus.write c cmd rcp pl len e rt).2) := rfl

theorem exec_getReadData (b : BusId) (s : State) :
    exec (.getReadData b) s = busOperation b s fun _ bus =>
      bus.getReadData.bind fun r => .ok (r.1, .readData r.2.1 r.2.2.1 r.2.2.2) := rfl

theorem exec_processEvents (b : BusId) (ct : Nat) (s : State) :
    exec (.processEvents b ct) s = busOperation b s fun _ bus => .ok (bus.processEvents ct, .none) := rfl

theorem exec_nodeHandleData (b : BusId) (id : NodeId) (len cmd : Byte) (pl : List Word) (s : State) :
    exec (.nodeHandleData b id len cmd pl) s = busOperation b s fun c bus =>
      if pl.length < len.toNat then .error .arrayTooShort
      else .ok ((bus.handleData c id len cmd pl).1, .bool (bus.handleData c id len cmd pl).2) := rfl

theorem exec_nodeTask (b : BusId) (id : NodeId) (ct : Nat) (s : State) :
    exec (.nodeTask b id ct) s = busOperation b s fun c bus =>
      match bus.task c ct id with
      | .error e => .error e
      | .ok bus' => .ok (bus', .none) := rfl

theorem exec_nodeSetConnected (b : BusId) (id : NodeId) (st : Bool) (s : State) :
    exec (.nodeSetConnected b id st) s = busOperation b s fun _ bus => .ok (bus.setConnected id st, .none) := rfl

theorem exec_nodeMainPeripheralDisconnected (b : BusId) (id : NodeId) (s : State) :
    exec (.nodeMainPeripheralDisconnected b id) s = busOperation b s fun _ bus =>
      match id with
      | .main => .ok (bus.disconnectSubs, .none)
      | .sub _ => .error .notMainNode := rfl

theorem exec_nodeIsPresent (b : BusId) (id : NodeId) (s : State) :
    exec (.nodeIsPresent b id) s = busOperation b s fun _ bus => .ok (bus, .bool (bus.node id).present) := rfl

theorem exec_mainDispatch (b : BusId) (words : List Word) (length : Nat) (s : State) :
    exec (.mainDispatch b words length) s = busOperation b s fun c bus =>
      if length = 0 then .error .emptyFrame
      else if words.length < length then .error .arrayTooShort
      else
        match bus.dispatch c words with
        | .error e => .error e
        | .ok (bus', handled) => .ok (bus', .bool handled) := rfl

theorem exec_pollerTick (b : BusId) (id : NodeId) (ct : Nat) (s : State) :
    exec (.pollerTick b id ct) s = busOperation b s fun c bus =>
      if (bus.node id).poller.attached then .ok ((bus.tick c ct id).1, .bool (bus.tick c ct id).2)
      else .error .notAttached := rfl

theorem exec_pollerAttach (b : BusId) (id : NodeId) (s : State) :
    exec (.pollerAttach b id) s = busOperation b s fun c bus => .ok (bus.updNode id (Node.attach c.cfg), .none) := rfl

theorem exec_pollerDetach (b : BusId) (id : NodeId) (s : State) :
    exec (.pollerDetach b id) s = busOperation b s fun _ bus => .ok (bus.updNode id Node.detach, .none) := rfl

theorem exec_txComplete (b : BusId) (s : State) :
    exec (.txComplete b) s = busEvent b s fun c bus => bus.takeTxComplete c := rfl

theorem exec_rxComplete (b : BusId) (n : Nat) (s : State) :
    exec (.rxComplete b n) s = busEvent b s fun c bus => bus.takeRxComplete c n := rfl

theorem exec_txStart (b : BusId) (s : State) : exec (.txStart b) s = busEvent b s fun c bus => bus.txStart c := rfl

theorem exec_txBit (b : BusId) (s : State) : exec (.txBit b) s = busEvent b s fun c bus => bus.txBit c := rfl

theorem exec_txEnd (b : BusId) (s : State) : exec (.txEnd b) s = busEvent b s fun c bus => bus.txEnd c := rfl

theorem exec_rxWaitStart (b : BusId) (symbol : Symbol) (s : State) :
    exec (.rxWaitStart b symbol) s = busEvent b s fun _ bus => bus.rxWaitStart symbol := rfl

theorem exec_rxBit (b : BusId) (bit : ClockedBit) (s : State) :
    exec (.rxBit b bit) s = busEvent b s fun c bus => bus.rxBit c bit := rfl

theorem exec_rxEnd (b : BusId) (s : State) : exec (.rxEnd b) s = busEvent b s fun c bus => bus.rxEnd c := rfl

theorem exec_rxBad (b : BusId) (s : State) : exec (.rxBad b) s = busEvent b s fun _ bus => bus.rxBad := rfl

/-! ## Several steps -/

@[simp] theorem execAll_nil (s : State) : execAll [] s = .next s := rfl

/-- The first of several steps, when it completes. -/
theorem execAll_cons_of_next {i : Instr} {rest : List Instr} {s t : State} (h : exec i s = .next t) :
    execAll (i :: rest) s = execAll rest t := by
  simp [execAll, h]

/-- The last of several steps, when those before it complete. -/
theorem execAll_append_of_next {l1 l2 : List Instr} {s t : State} (h : execAll l1 s = .next t) :
    execAll (l1 ++ l2) s = execAll l2 t := by
  induction l1 generalizing s with
  | nil => cases h; rfl
  | cons i l1 ih =>
    simp only [execAll, List.cons_append] at h ⊢
    cases hi : exec i s with
    | next u => rw [hi] at h; simp only at h ⊢; exact ih h
    | fault f => rw [hi] at h; cases h
    | refused r => rw [hi] at h; cases h

/-! ## Nodes of a bus -/

/-- Writing a node with itself. -/
@[simp] theorem Bus.setNode_node (b : Bus) (id : NodeId) : b.setNode id (b.node id) = b := by
  cases id with
  | main => rfl
  | sub i => fin_cases i <;> rfl

/-- The second write of a node wins. -/
@[simp] theorem Bus.setNode_setNode (b : Bus) (id : NodeId) (m n : Node) :
    (b.setNode id m).setNode id n = b.setNode id n := by
  cases id with
  | main => rfl
  | sub i => fin_cases i <;> rfl

/-- A node's poller after it was changed. -/
theorem Bus.node_updPoller (bus : Bus) (id : NodeId) (f : Poller → Poller) :
    (bus.updPoller id f).node id = { bus.node id with poller := f (bus.node id).poller } := by
  simp [Bus.updPoller, Bus.node_updNode]

/-- NODE.HANDLEDATA changes no transport. -/
@[simp] theorem Bus.handleData_t (c : Ctx) (bus : Bus) (id : NodeId) (len cmd : Byte) (pl : List Word) :
    (bus.handleData c id len cmd pl).1.t = bus.t := by
  simp only [Bus.handleData]
  split
  · simp only []; split <;> simp
  · split <;> simp [Bus.raise]

end Sys2Proof.Machine
end

