-- ==== Sys2Proof/Laws/Codec.lean ====
section
/-! SUPPORT. The laws of the frame and address codecs and of the receiver's shift register. -/

namespace Sys2Proof.Machine

/-- On at most `BUF_BYTES` bytes of a long enough array the operation is done. -/
theorem onBytes_of_le (bytes : List Byte) (n : Nat) (s : State) (r : Ret) (h1 : n ≤ 1029) (h2 : n ≤ bytes.length) :
    onBytes bytes n s r = .next { s with ret := r } := by
  have hb : ¬ bufBytes < n := by unfold bufBytes; omega
  unfold onBytes handBack; rw [if_neg hb, if_neg (by omega)]

/-- VALIDATE as R126 words it. -/
theorem crcValid_iff_last (bytes : List Byte) (n : Nat) (hn : n ≤ bytes.length) : crcValid bytes n = true ↔ ∃ m, n = m+1 ∧ bytes[m]? = some (crcOf (bytes.take m)) := by
  cases n with
  | zero => simp [crcValid]
  | succ m =>
    have hm : m < bytes.length := by omega
    simp only [crcValid, List.getElem?_eq_getElem hm, beq_iff_eq, Option.some.injEq, Nat.add_right_cancel_iff, exists_eq_left', List.getD_eq_getElem?_getD, Option.getD_some]
    exact eq_comm

/-- Exclusive or 0 means equal. -/
theorem xor_eq_zero_iff (a b : Byte) : a ^^^ b = 0 ↔ a = b := by
  constructor
  · intro h
    have := congrArg (· ^^^ b) h
    simp only [BitVec.xor_assoc, BitVec.xor_self, BitVec.xor_zero] at this
    exact this.trans (BitVec.zero_xor)
  · rintro rfl; simp

/-- VALIDATE as the exclusive or of all the bytes. -/
theorem crcValid_iff_zero (bytes : List Byte) (n : Nat) (hn : n ≤ bytes.length) : crcValid bytes n = true ↔ 0 < n ∧ crcOf (bytes.take n) = 0 := by
  cases n with
  | zero => simp [crcValid]
  | succ m =>
    have hm : m < bytes.length := by omega
    rw [List.take_add_one, crcOf_append, List.getElem?_eq_getElem hm, Option.toList_some, crcOf_singleton, xor_eq_zero_iff]
    simp [crcValid, List.getElem?_eq_getElem hm]

/-- The CRC after one byte is replaced. -/
theorem crcOf_set (l : List Byte) (i : Nat) (x : Byte) (hi : i < l.length) : crcOf (l.set i x) = crcOf l ^^^ l[i] ^^^ x := by
  induction l generalizing i with
  | nil => simp at hi
  | cons a l ih =>
    have hc : ∀ (a : Byte) l, crcOf (a :: l) = a ^^^ crcOf l := fun a l => by
      rw [show a :: l = [a] ++ l from rfl, crcOf_append, crcOf_singleton]
    cases i with
    | zero => simp only [List.set_cons_zero, hc, List.getElem_cons_zero]
              rw [show a ^^^ crcOf l ^^^ a ^^^ x = (a ^^^ a) ^^^ crcOf l ^^^ x by ac_rfl]; simp [BitVec.xor_comm]
    | succ i =>
      simp only [List.set_cons_succ, hc, List.getElem_cons_succ, ih i (by simpa using hi)]; ac_rfl

/-- The bytes of some words. -/
theorem length_flatMap_wireBytes (ws : List Word) : (ws.flatMap wireBytes).length = 4 * ws.length := by
    induction ws with
    | nil => rfl
    | cons w ws ih => simp [List.flatMap_cons, ih, wireBytes]; omega

/-- One of the bytes of some words (R61). -/
theorem getElem?_flatMap_wireBytes (ws : List Word) (k j : Nat) (w : Word) (hj : j < 4) (hw : ws[k]? = some w) : (ws.flatMap wireBytes)[4*k+j]? = some (w.extractLsb' (24 - 8 * j) 8) := by
  induction ws generalizing k with
  | nil => simp at hw
  | cons v ws ih =>
    rw [List.flatMap_cons]
    cases k with
    | zero =>
      simp at hw; subst hw
      interval_cases j <;> simp [wireBytes]
    | succ k =>
      rw [List.getElem?_append_right (by simp [wireBytes]; omega)]
      rw [show 4 * (k+1) + j - (wireBytes v).length = 4 * k + j by simp [wireBytes]; omega]
      exact ih k (by simpa using hw)

/-- A one-hot mask has its index (R144). -/
theorem oneHotIndex_of_eq : ∀ (a : Byte) (i : Fin 5), a &&& 0x1F = 1 <<< i.val → oneHotIndex (submask a) = some i := by decide

/-- A mask that is not one-hot has none (R144). -/
theorem oneHotIndex_of_ne : ∀ (a : Byte), (∀ i : Fin 5, a &&& 0x1F ≠ 1 <<< i.val) → oneHotIndex (submask a) = none := by decide

/-- A word of some bytes (R63). -/
theorem getElem?_wordsOfWire (l : List Byte) (k : Nat) (h : 4 * k + 4 ≤ l.length) (b0 b1 b2 b3 : Byte)
   (h0 : l[4*k]? = some b0) (h1 : l[4*k+1]? = some b1) (h2 : l[4*k+2]? = some b2) (h3 : l[4*k+3]? = some b3) :
   (wordsOfWire l)[k]? = some (b0 ++ b1 ++ b2 ++ b3) := by
  induction k generalizing l with
  | zero =>
    match l, h with
    | a :: b :: c :: d :: r, _ => simp at h0 h1 h2 h3; subst h0 h1 h2 h3; simp [wordsOfWire]
  | succ k ih =>
    match l, h with
    | a :: b :: c :: d :: r, h =>
      simp only [wordsOfWire, List.getElem?_cons_succ]
      apply ih
      · simp at h; omega
      · rw [← h0, show 4 * (k+1) = 4*k+4 by omega]; simp
      · rw [← h1, show 4 * (k+1) + 1 = 4*k+1+4 by omega]; simp
      · rw [← h2, show 4 * (k+1) + 2 = 4*k+2+4 by omega]; simp
      · rw [← h3, show 4 * (k+1) + 3 = 4*k+3+4 by omega]; simp

/-- The number of words of some bytes. -/
theorem length_wordsOfWire (l : List Byte) : (wordsOfWire l).length = l.length / 4 := by
  match l with
  | [] => rfl
  | [_] => simp [wordsOfWire]
  | [_,_] => simp [wordsOfWire]
  | [_,_,_] => simp [wordsOfWire]
  | a :: b :: c :: d :: r => simp only [wordsOfWire, List.length_cons, length_wordsOfWire r]; omega

/-- The first byte of a word of four. -/
theorem extract_byte3 (a b c d : Byte) : (a ++ b ++ c ++ d : Word).extractLsb' 24 8 = a := by
  ext i hi; simp only [BitVec.getElem_extractLsb', BitVec.getLsbD_append]
  simp [show ¬ (24 + i < 8) by omega, show ¬ (24 + i - 8 < 8) by omega, show ¬ (24 + i - 8 - 8 < 8) by omega, show 24 + i - 8 - 8 - 8 = i by omega, hi]

/-- The second byte of a word of four. -/
theorem extract_byte2 (a b c d : Byte) : (a ++ b ++ c ++ d : Word).extractLsb' 16 8 = b := by
  ext i hi; simp only [BitVec.getElem_extractLsb', BitVec.getLsbD_append]
  simp [show ¬ (16 + i < 8) by omega, show ¬ (16 + i - 8 < 8) by omega, show 16 + i - 8 - 8 = i by omega, hi]

/-- The third byte of a word of four. -/
theorem extract_byte1 (a b c d : Byte) : (a ++ b ++ c ++ d : Word).extractLsb' 8 8 = c := by
  ext i hi; simp only [BitVec.getElem_extractLsb', BitVec.getLsbD_append]
  simp [show ¬ (8 + i < 8) by omega, show 8 + i - 8 = i by omega, hi]

/-- The last byte of a word of four. -/
theorem extract_byte0 (a b c d : Byte) : (a ++ b ++ c ++ d : Word).extractLsb' 0 8 = d := by
  ext i hi; simp only [BitVec.getElem_extractLsb', BitVec.getLsbD_append]
  simp [hi]

@[simp] theorem headerLength_headerWord (l : HdrLayout) (c r sd len : Byte) : headerLength l (headerWord l c r sd len) = len := by
  cases l <;> simp [headerLength, headerWord, extract_byte3, extract_byte0]

@[simp] theorem headerCommand_headerWord (l : HdrLayout) (c r sd len : Byte) : headerCommand l (headerWord l c r sd len) = c := by
  cases l <;> simp [headerCommand, headerWord, extract_byte3, extract_byte0]

@[simp] theorem headerRecipient_headerWord (l : HdrLayout) (c r sd len : Byte) : headerRecipient l (headerWord l c r sd len) = r := by
  cases l <;> simp [headerRecipient, headerWord, extract_byte2, extract_byte1]

@[simp] theorem headerSender_headerWord (l : HdrLayout) (c r sd len : Byte) : headerSender l (headerWord l c r sd len) = sd := by
  cases l <;> simp [headerSender, headerWord, extract_byte2, extract_byte1]

/-- A parsed frame has one word more than its length byte says (R128). -/
theorem length_words_of_parseFrame {l : HdrLayout} {bytes : List Byte} {n : Nat} {p : ParsedFrame}
    (hn : n ≤ bytes.length) (h : parseFrame l bytes n = some p) : p.words.length = 1 + p.length.toNat := by
  unfold parseFrame at h
  split at h
  · next hs =>
    simp only at h
    split at h
    · next hl =>
      cases h
      simp only [frameSizeOk, Bool.and_eq_true, decide_eq_true_eq] at hs
      simp only [length_wordsOfWire, List.length_take, hl]
      omega
    · cases h
  · cases h

/-- Shifting in a bit as arithmetic. -/
theorem shiftConcat_eq (x : Byte) (v : Bool) : x.shiftConcat v = (x <<< 1) ||| (if v then 1 else 0) := by
  revert x v; decide

/-- Eight bits shifted in, most significant first, are the byte. -/
theorem shiftConcat_eight : ∀ x y : Byte, (((((((( y.shiftConcat (x.getLsbD 7)).shiftConcat (x.getLsbD 6)).shiftConcat (x.getLsbD 5)).shiftConcat (x.getLsbD 4)).shiftConcat (x.getLsbD 3)).shiftConcat (x.getLsbD 2)).shiftConcat (x.getLsbD 1)).shiftConcat (x.getLsbD 0)) = x := by
  intro x y
  ext i hi
  interval_cases i <;> simp [BitVec.getElem_shiftConcat]

/-! ## The memory of a bus stays in canonical form -/

theorem Memory.wf_iff {t : Transport} : Memory.wf t = true ↔
    cellsWf bufBytes t.wb = true ∧ cellsWf bufBytes t.rb = true ∧ cellsWf lvWords t.lv = true := by
  simp [Memory.wf, and_assoc]

/-- After reset nothing is listed. -/
theorem Memory.wf_reset (p : Params) (b : Nat) : Memory.wf (resetTransport p b) = true := rfl

/-- WRITE fills `T.WB` from index 0 (R204). -/
theorem Memory.wf_accept {t : Transport} {p : Params} {t1 : Nat} {cmd rcp : Byte} {pl : List Word} {len : Byte} {e : Bool}
    {rt : Word} (hl : len.toNat ≤ pl.length) (h : Memory.wf t = true) :
    Memory.wf (t.accept p t1 cmd rcp pl len e rt) = true := by
  rw [Memory.wf_iff] at h ⊢
  refine ⟨cellsWf_writeCells _ _ _ h.1 ?_, h.2⟩
  have := len.isLt
  rw [length_frameBytes _ _ _ _ _ _ hl]
  simp only [frameSize, bufBytes]
  omega

/-- RX.BIT stores the next byte in `T.RB` while it has room (R179). -/
theorem Memory.wf_shiftIn {t : Transport} {v : Bool} (h : Memory.wf t = true) : Memory.wf (t.shiftIn v) = true := by
  rw [Memory.wf_iff] at h ⊢
  simp only [Transport.shiftIn]
  split
  · unfold Transport.storeByte
    split
    · next hc => exact ⟨h.1, cellsWf_writeCell _ _ _ h.2.1 hc, h.2.2⟩
    · exact h
  · exact h

/-- RXCOMPLETE publishes the words of a parsed frame in `T.LV` from index 0 (R212). -/
theorem Memory.wf_publish {t : Transport} {l : HdrLayout} {bytes : List Byte} {n : Nat} {p : ParsedFrame}
    (hn : n ≤ bytes.length) (hp : parseFrame l bytes n = some p) (h : Memory.wf t = true) :
    Memory.wf (t.publish p) = true := by
  rw [Memory.wf_iff] at h ⊢
  refine ⟨h.1, h.2.1, cellsWf_writeCells _ _ _ h.2.2 ?_⟩
  have := p.length.isLt
  rw [length_words_of_parseFrame hn hp]
  simp only [lvWords]
  omega

end Sys2Proof.Machine
end

