-- ==== Sys2Proof/Laws/Decode.lean ====
section
/-! SUPPORT. Every operand reader reads back what the operand writer of the same kind wrote (log entry 7). -/

namespace Sys2Proof

theorem getU16_put (n : Nat) (h : fits16 n = true) (r : List Byte) : getU16 (putU16 n ++ r) = .ok (n, r) := by
  simp only [fits16, decide_eq_true_eq] at h
  simp [getU16, putU16]
  rw [Nat.mod_eq_of_lt (show n / 256 < 256 by omega)]; omega

theorem getWord_put (w : Word) (r : List Byte) : getWord (putWord w ++ r) = .ok (w, r) := by
  simp only [getWord, putWord, List.cons_append, List.nil_append, Except.ok.injEq, Prod.mk.injEq, and_true]
  ext i hi
  simp only [BitVec.getElem_append, BitVec.getElem_extractLsb']
  split
  · simp [BitVec.getLsbD_eq_getElem hi]
  · split
    · rw [← BitVec.getLsbD_eq_getElem hi]; congr 1; omega
    · split
      · rw [← BitVec.getLsbD_eq_getElem hi]; congr 1; omega
      · rw [← BitVec.getLsbD_eq_getElem hi]; congr 1; omega

theorem getBool_put (b : Bool) (r : List Byte) : getBool (putBool b ++ r) = .ok (b, r) := by cases b <;> rfl

theorem getTime_groups (fuel : Nat) : ∀ (t : Nat) (r : List Byte), t < 128 ^ (fuel + 1) → getTime (putTimeGroups fuel t ++ r) = .ok (t, r) := by
  induction fuel with
  | zero =>
    intro t r h
    have : t < 128 := by simpa using h
    simp [putTimeGroups, getTime, Nat.mod_eq_of_lt this, this, show t % 256 = t by omega]
  | succ f ih =>
    intro t r h
    simp only [putTimeGroups]
    split
    · next ht => simp [getTime, ht, show t % 256 = t by omega]
    · next ht =>
      have h2 := ih (t / 128) r (by rw [Nat.div_lt_iff_lt_mul (by decide)]; rw [pow_succ] at h; exact h)
      simp only [List.cons_append, getTime, h2]
      have : (BitVec.ofNat 8 (128 + t % 128)).toNat = 128 + t % 128 := by simp; omega
      rw [this, if_neg (by omega)]
      simp; omega

theorem getTime_put (t : Nat) (r : List Byte) : getTime (putTime t ++ r) = .ok (t, r) := by
  apply getTime_groups
  calc t < 2 ^ t := Nat.lt_two_pow_self
    _ ≤ 128 ^ t := Nat.pow_le_pow_left (by decide) _
    _ ≤ 128 ^ (t+1) := Nat.pow_le_pow_right (by decide) (by omega)

theorem getBytesN_put (l : List Byte) (r : List Byte) : getBytesN l.length (l ++ r) = .ok (l, r) := by
  induction l with
  | nil => rfl
  | cons b l ih => simp [getBytesN, getU8, ih, bind, Except.bind]

theorem getWordsN_put (l : List Word) (r : List Byte) : getWordsN l.length (l.flatMap putWord ++ r) = .ok (l, r) := by
  induction l with
  | nil => rfl
  | cons b l ih => simp [getWordsN, getWord_put, ih, bind, Except.bind, List.flatMap_cons, List.append_assoc]

theorem getBytes_put (l : List Byte) (h : fits16 l.length = true) (r : List Byte) : getBytes (putBytes l ++ r) = .ok (l, r) := by
  simp [getBytes, putBytes, List.append_assoc, getU16_put _ h, getBytesN_put, bind, Except.bind]

theorem getWords_put (l : List Word) (h : fits16 l.length = true) (r : List Byte) : getWords (putWords l ++ r) = .ok (l, r) := by
  simp [getWords, putWords, List.append_assoc, getU16_put _ h, getWordsN_put, bind, Except.bind]

theorem getBus_put (b : BusId) (r : List Byte) : getBus (putBus b ++ r) = .ok (b, r) := by
  fin_cases b <;> rfl

theorem getNode_put (n : NodeId) (r : List Byte) : getNode (putNode n ++ r) = .ok (n, r) := by
  cases n with
  | main => rfl
  | sub i => fin_cases i <;> rfl

theorem getTarget_put (n : Target) (r : List Byte) : getTarget (putTarget n ++ r) = .ok (n, r) := by
  cases n <;> rfl

theorem getLine_put (n : Line) (r : List Byte) : getLine (putLine n ++ r) = .ok (n, r) := by
  cases n <;> rfl

theorem getSymbol_put (n : Symbol) (r : List Byte) : getSymbol (putSymbol n ++ r) = .ok (n, r) := by
  rcases n with _ | ⟨⟨b, clock⟩⟩ | _ | _
  · rfl
  · cases b <;> cases clock <;> rfl
  · rfl
  · rfl

theorem getU8_cons (b : Byte) (r : List Byte) : getU8 (b :: r) = .ok (b, r) := rfl

end Sys2Proof
end

