-- ==== Sys2Proof/Laws/Effect.lean ====
section
/-! SUPPORT. Every completed step as an effect on one bus, and what the node layer can do to the transport: at most one accepted WRITE. -/

namespace Sys2Proof.Machine

/-- What a step does to the bus it acts on. -/
def busEffect (c : Ctx) (bus : Bus) : Instr → Except Refusal Bus
  | .write _ cmd rcp pl len e rt =>
    if pl.length < len.toNat then .error .arrayTooShort else .ok (bus.write c cmd rcp pl len e rt).1
  | .getReadData _ => bus.getReadData.map (fun r => r.1)
  | .processEvents _ ct => .ok (bus.processEvents ct)
  | .nodeHandleData _ id len cmd pl =>
    if pl.length < len.toNat then .error .arrayTooShort else .ok (bus.handleData c id len cmd pl).1
  | .nodeTask _ id ct => bus.task c ct id
  | .nodeSetConnected _ id st => .ok (bus.setConnected id st)
  | .nodeMainPeripheralDisconnected _ id => if id = .main then .ok bus.disconnectSubs else .error .notMainNode
  | .mainDispatch _ words length =>
    if length = 0 then .error .emptyFrame
    else if words.length < length then .error .arrayTooShort
    else (bus.dispatch c words).map (fun r => r.1)
  | .pollerTick _ id ct =>
    if (bus.node id).poller.attached then .ok (bus.tick c ct id).1 else .error .notAttached
  | .pollerAttach _ id => .ok (bus.updNode id (Node.attach c.cfg))
  | .pollerDetach _ id => .ok (bus.updNode id Node.detach)
  | .txComplete _ => bus.takeTxComplete c
  | .rxComplete _ n => bus.takeRxComplete c n
  | .txStart _ => bus.txStart c
  | .txBit _ => bus.txBit c
  | .txEnd _ => bus.txEnd c
  | .rxWaitStart _ symbol => bus.rxWaitStart symbol
  | .rxBit _ bit => bus.rxBit c bit
  | .rxEnd _ => bus.rxEnd c
  | .rxBad _ => bus.rxBad
  | _ => .ok bus

/-- A completed operation on a bus, by its effect on the bus. -/
theorem busOperation_effect {b : BusId} {s t : State} {f : Ctx → Bus → Except Refusal (Bus × Ret)}
    (h : busOperation b s f = .next t) :
    ∃ bus bus' r, s.buses[b.val]? = some bus ∧ (f (ctxOf s b) bus).map (fun p => p.1) = .ok bus' ∧
      t = { s with buses := s.buses.set b.val bus', ret := r } := by
  obtain ⟨bus, bus', r, hb, hf, rfl⟩ := busOperation_next_iff.1 h
  exact ⟨bus, bus', r, hb, by rw [hf]; rfl, rfl⟩

/-- Every completed step: nothing but `crc`, `ret` and the one bus it acts on changes, and that bus by `busEffect`. -/
theorem exec_effect {i : Instr} {s t : State} (h : exec i s = .next t) :
    (busOf i = none ∧ ∃ crc r, t = { s with crc := crc, ret := r }) ∨
      ∃ b bus bus' r, busOf i = some b ∧ s.buses[b.val]? = some bus ∧ busEffect (ctxOf s b) bus i = .ok bus' ∧
        t = { s with buses := s.buses.set b.val bus', ret := r } ∧ (engineStep i = true → r = s.ret) := by
  have pure : ∀ {r : Ret} {t : State}, handBack s r = .next t → ∃ crc r, t = { s with crc := crc, ret := r } := by
    intro r t h; cases h; exact ⟨s.crc, r, rfl⟩
  have bytes : ∀ {bs : List Byte} {n : Nat} {r : Ret} {t : State}, onBytes bs n s r = .next t →
      ∃ crc r, t = { s with crc := crc, ret := r } := by
    intro bs n r t h
    unfold onBytes at h
    split at h
    · cases h
    · split at h
      · cases h
      · exact pure h
  have event : ∀ {b : BusId} {f : Ctx → Bus → Except Refusal Bus} {t : State}, busEvent b s f = .next t →
      ∃ bus bus', s.buses[b.val]? = some bus ∧ f (ctxOf s b) bus = .ok bus' ∧
        t = { s with buses := s.buses.set b.val bus', ret := s.ret } := by
    intro b f t h
    obtain ⟨bus, bus', hb, hf, rfl⟩ := busEvent_next_iff.1 h
    exact ⟨bus, bus', hb, hf, rfl⟩
  cases i with
  | computeCrc bs n => exact .inl ⟨rfl, bytes h⟩
  | encode cmd a r pl len =>
    simp only [exec, execEncode] at h
    split at h
    · cases h
    · exact .inl ⟨rfl, pure h⟩
  | validate bs n => exact .inl ⟨rfl, bytes h⟩
  | parse bs n => exact .inl ⟨rfl, bytes h⟩
  | getRecipientAddress p tgt =>
    refine .inl ⟨rfl, ?_⟩
    simp only [exec, execGetRecipientAddress] at h
    split at h
    · cases h
    · split at h
      · exact pure h
      · split at h
        · exact pure h
        · cases h
  | subPeripheralMask a => exact .inl ⟨rfl, pure h⟩
  | subPeripheralIndex a =>
    refine .inl ⟨rfl, ?_⟩
    simp only [exec, execSubPeripheralIndex] at h
    split at h
    · cases h
    · exact pure h
  | condDecode w0 w1 => exact .inl ⟨rfl, pure h⟩
  | crcClear => cases h; exact .inl ⟨rfl, crcInit, s.ret, rfl⟩
  | crcUpdate x => cases h; exact .inl ⟨rfl, crcStep s.crc x, s.ret, rfl⟩
  | txComplete b =>
    rw [exec_txComplete] at h
    obtain ⟨bus, bus', hb, hf, rfl⟩ := event h
    exact .inr ⟨b, bus, bus', _, rfl, hb, hf, rfl, fun _ => rfl⟩
  | rxComplete b n =>
    rw [exec_rxComplete] at h
    obtain ⟨bus, bus', hb, hf, rfl⟩ := event h
    exact .inr ⟨b, bus, bus', _, rfl, hb, hf, rfl, fun _ => rfl⟩
  | txStart b =>
    rw [exec_txStart] at h
    obtain ⟨bus, bus', hb, hf, rfl⟩ := event h
    exact .inr ⟨b, bus, bus', _, rfl, hb, hf, rfl, fun _ => rfl⟩
  | txBit b =>
    rw [exec_txBit] at h
    obtain ⟨bus, bus', hb, hf, rfl⟩ := event h
    exact .inr ⟨b, bus, bus', _, rfl, hb, hf, rfl, fun _ => rfl⟩
  | txEnd b =>
    rw [exec_txEnd] at h
    obtain ⟨bus, bus', hb, hf, rfl⟩ := event h
    exact .inr ⟨b, bus, bus', _, rfl, hb, hf, rfl, fun _ => rfl⟩
  | rxWaitStart b y =>
    rw [exec_rxWaitStart] at h
    obtain ⟨bus, bus', hb, hf, rfl⟩ := event h
    exact .inr ⟨b, bus, bus', _, rfl, hb, hf, rfl, fun _ => rfl⟩
  | rxBit b bit =>
    rw [exec_rxBit] at h
    obtain ⟨bus, bus', hb, hf, rfl⟩ := event h
    exact .inr ⟨b, bus, bus', _, rfl, hb, hf, rfl, fun _ => rfl⟩
  | rxEnd b =>
    rw [exec_rxEnd] at h
    obtain ⟨bus, bus', hb, hf, rfl⟩ := event h
    exact .inr ⟨b, bus, bus', _, rfl, hb, hf, rfl, fun _ => rfl⟩
  | rxBad b =>
    rw [exec_rxBad] at h
    obtain ⟨bus, bus', hb, hf, rfl⟩ := event h
    exact .inr ⟨b, bus, bus', _, rfl, hb, hf, rfl, fun _ => rfl⟩
  | write b cmd rcp pl len e rt =>
    obtain ⟨bus, bus', r, hb, hf, rfl⟩ := busOperation_effect (by rwa [exec_write] at h)
    refine .inr ⟨b, bus, bus', r, rfl, hb, ?_, rfl, nofun⟩
    rw [← hf]; simp only [busEffect]; split <;> rfl
  | getReadData b =>
    obtain ⟨bus, bus', r, hb, hf, rfl⟩ := busOperation_effect (by rwa [exec_getReadData] at h)
    refine .inr ⟨b, bus, bus', r, rfl, hb, ?_, rfl, nofun⟩
    rw [← hf]; simp only [busEffect]; cases bus.getReadData <;> rfl
  | processEvents b ct =>
    obtain ⟨bus, bus', r, hb, hf, rfl⟩ := busOperation_effect (by rwa [exec_processEvents] at h)
    exact .inr ⟨b, bus, bus', r, rfl, hb, hf, rfl, nofun⟩
  | nodeHandleData b id len cmd pl =>
    obtain ⟨bus, bus', r, hb, hf, rfl⟩ := busOperation_effect (by rwa [exec_nodeHandleData] at h)
    refine .inr ⟨b, bus, bus', r, rfl, hb, ?_, rfl, nofun⟩
    rw [← hf]; simp only [busEffect]; split <;> rfl
  | nodeTask b id ct =>
    obtain ⟨bus, bus', r, hb, hf, rfl⟩ := busOperation_effect (by rwa [exec_nodeTask] at h)
    refine .inr ⟨b, bus, bus', r, rfl, hb, ?_, rfl, nofun⟩
    rw [← hf]; simp only [busEffect]; cases bus.task (ctxOf s b) ct id <;> rfl
  | nodeSetConnected b id st =>
    obtain ⟨bus, bus', r, hb, hf, rfl⟩ := busOperation_effect (by rwa [exec_nodeSetConnected] at h)
    exact .inr ⟨b, bus, bus', r, rfl, hb, hf, rfl, nofun⟩
  | nodeMainPeripheralDisconnected b id =>
    obtain ⟨bus, bus', r, hb, hf, rfl⟩ := busOperation_effect (by rwa [exec_nodeMainPeripheralDisconnected] at h)
    refine .inr ⟨b, bus, bus', r, rfl, hb, ?_, rfl, nofun⟩
    rw [← hf]; cases id <;> rfl
  | nodeIsPresent b id =>
    obtain ⟨bus, bus', r, hb, hf, rfl⟩ := busOperation_effect (by rwa [exec_nodeIsPresent] at h)
    exact .inr ⟨b, bus, bus', r, rfl, hb, hf, rfl, nofun⟩
  | mainDispatch b words length =>
    obtain ⟨bus, bus', r, hb, hf, rfl⟩ := busOperation_effect (by rwa [exec_mainDispatch] at h)
    refine .inr ⟨b, bus, bus', r, rfl, hb, ?_, rfl, nofun⟩
    rw [← hf]; simp only [busEffect]
    split
    · rfl
    · split
      · rfl
      · cases bus.dispatch (ctxOf s b) words <;> rfl
  | pollerTick b id ct =>
    obtain ⟨bus, bus', r, hb, hf, rfl⟩ := busOperation_effect (by rwa [exec_pollerTick] at h)
    refine .inr ⟨b, bus, bus', r, rfl, hb, ?_, rfl, nofun⟩
    rw [← hf]; simp only [busEffect]; split <;> rfl
  | pollerAttach b id =>
    obtain ⟨bus, bus', r, hb, hf, rfl⟩ := busOperation_effect (by rwa [exec_pollerAttach] at h)
    exact .inr ⟨b, bus, bus', r, rfl, hb, hf, rfl, nofun⟩
  | pollerDetach b id =>
    obtain ⟨bus, bus', r, hb, hf, rfl⟩ := busOperation_effect (by rwa [exec_pollerDetach] at h)
    exact .inr ⟨b, bus, bus', r, rfl, hb, hf, rfl, nofun⟩

/-! ## What the node layer does to the transport -/

/-- The transport is as it was, or one WRITE has been accepted. -/
def MayAccept (c : Ctx) (t t' : Transport) : Prop :=
  t' = t ∨ t.busy = false ∧ ∃ t1 cmd rcp pl len e rt, len.toNat ≤ pl.length ∧
    t' = t.accept c.cfg t1 cmd rcp pl len e rt

theorem MayAccept.refl (c : Ctx) (t : Transport) : MayAccept c t t := .inl rfl

/-- After an accepted WRITE the bus is busy, so no second one is accepted. -/
theorem MayAccept.trans {c : Ctx} {t t' t'' : Transport} (h : MayAccept c t t') (h' : MayAccept c t' t'') :
    MayAccept c t t'' := by
  rcases h with rfl | ⟨hb, t1, cmd, rcp, pl, len, e, rt, hl, rfl⟩
  · exact h'
  · rcases h' with rfl | ⟨hb', _⟩
    · exact .inr ⟨hb, t1, cmd, rcp, pl, len, e, rt, hl, rfl⟩
    · simp [Transport.busy, Transport.accept] at hb'

/-- A WRITE. -/
theorem Bus.write_mayAccept (c : Ctx) (bus : Bus) (cmd rcp : Byte) (pl : List Word) (len : Byte) (e : Bool) (rt : Word)
    (hl : len.toNat ≤ pl.length) : MayAccept c bus.t (bus.write c cmd rcp pl len e rt).1.t := by
  rcases bus.write_cases c cmd rcp pl len e rt with ⟨_, h⟩ | ⟨_, _, h⟩ | ⟨hb, _, h⟩ <;> rw [h]
  · exact .inl rfl
  · exact .inl rfl
  · exact .inr ⟨hb, _, cmd, rcp, pl, len, e, rt, hl, rfl⟩

theorem condReqLen_le (p : Params) : (condReqLen p).toNat ≤ p.condReqPayload.length := by
  simp only [condReqLen, BitVec.toNat_ofNat]; exact Nat.mod_le _ _

/-- `POLL(N)`. -/
theorem Bus.poll_mayAccept (c : Ctx) (ct : Nat) (bus : Bus) (id : NodeId) : MayAccept c bus.t (bus.poll c ct id).t := by
  have h := bus.write_mayAccept c c.cfg.cmdGetCondition (bus.node id).addr c.cfg.condReqPayload (condReqLen c.cfg) true
    c.cfg.condReadTimeoutUs (condReqLen_le c.cfg)
  simp only [Bus.poll]
  split
  · simpa [Bus.updPoller] using h
  · exact h

/-- `PROBE(N)`. -/
theorem Bus.probe_mayAccept (c : Ctx) (ct : Nat) (bus : Bus) (id : NodeId) :
    MayAccept c bus.t (bus.probe c ct id).t := by
  have h := bus.write_mayAccept c c.cfg.cmdDeviceInfoRequest (bus.node id).addr [] 0 true c.cfg.probeReadTimeoutUs
    (by simp)
  simp only [Bus.probe]
  split
  · simpa using h
  · exact h

@[simp] theorem Bus.transition1_t (c : Ctx) (bus : Bus) (id : NodeId) : (bus.transition1 c id).t = bus.t := by
  simp only [Bus.transition1]
  split
  · split <;> simp
  · rfl

/-- POLLER.TICK. -/
theorem Bus.tick_mayAccept (c : Ctx) (ct : Nat) (bus : Bus) (id : NodeId) :
    MayAccept c bus.t (bus.tick c ct id).1.t := by
  have key : ∀ d : Bus, MayAccept c d.t (d.transition2 c ct id).1.t := by
    intro d
    simp only [Bus.transition2, Bus.missedPoll]
    split
    · split
      · split
        · exact .inl (by simp [Bus.updPoller])
        · simp only []
          split
          · have := Bus.poll_mayAccept c ct ((d.raise .missedPoll).updPoller id
              fun q => { q with noData := q.noData + 1, waiting := false }) id
            simpa [Bus.updPoller] using this
          · exact .inl (by simp [Bus.updPoller])
      · exact d.poll_mayAccept c ct id
    · exact .inl rfl
  have h := key (bus.transition1 c id)
  rwa [Bus.transition1_t] at h

/-- Part (2) of NODE.TASK. -/
theorem Bus.ownWork_mayAccept (c : Ctx) (ct : Nat) (bus : Bus) (id : NodeId) :
    MayAccept c bus.t (bus.ownWork c ct id).t := by
  simp only [Bus.ownWork]
  split
  · split
    · split
      · exact bus.tick_mayAccept c ct id
      · simpa using bus.tick_mayAccept c ct id
    · exact .inl rfl
  · split
    · exact bus.probe_mayAccept c ct id
    · exact .inl rfl

/-- Part (3) of NODE.TASK. -/
theorem Bus.fanOut_mayAccept (c : Ctx) (ct : Nat) (bus : Bus) : MayAccept c bus.t (bus.fanOut c ct).t := by
  have key : ∀ (l : List (Fin 5)) (d : Bus),
      MayAccept c d.t (l.foldl (fun b i => b.ownWork c ct (.sub i)) d).t := by
    intro l
    induction l with
    | nil => intro d; exact .inl rfl
    | cons i l ih => intro d; exact (d.ownWork_mayAccept c ct (.sub i)).trans (ih _)
  exact key _ _

/-- MAIN.DISPATCH changes no transport. -/
theorem Bus.dispatch_t {c : Ctx} {bus bus' : Bus} {words : List Word} {handled : Bool}
    (h : bus.dispatch c words = .ok (bus', handled)) : bus'.t = bus.t := by
  obtain ⟨hdr, pl, _, ⟨rfl, _⟩ | ⟨id, _, _, _, he⟩⟩ := Bus.dispatch_ok h
  · rfl
  · rw [show bus' = _ from congrArg Prod.fst he, Bus.handleData_t]

/-- Part (1) of NODE.TASK clears the new-frame flag and does nothing else to the transport. -/
theorem Bus.consumeFrame_t {c : Ctx} {bus bus' : Bus} (h : bus.consumeFrame c = .ok bus') :
    bus'.t = { bus.t with lvNew := false } := by
  obtain ⟨words, _, ⟨_, rfl⟩ | ⟨_, _, handled, hd⟩⟩ := Bus.consumeFrame_ok h
  · rfl
  · rw [Bus.dispatch_t hd]

/-- NODE.TASK: on a main node the flag is cleared; then at most one WRITE is accepted. -/
theorem Bus.task_mayAccept {c : Ctx} {ct : Nat} {bus bus' : Bus} {id : NodeId} (h : bus.task c ct id = .ok bus') :
    MayAccept c (if id = .main then { bus.t with lvNew := false } else bus.t) bus'.t := by
  cases id with
  | sub i => cases h; exact bus.ownWork_mayAccept c ct (.sub i)
  | main =>
    simp only [Bus.task] at h
    split at h
    · cases h
    · next b hb =>
      cases h
      rw [if_pos rfl, ← Bus.consumeFrame_t hb]
      split
      · exact (b.ownWork_mayAccept c ct .main).trans (Bus.fanOut_mayAccept c ct _)
      · exact b.ownWork_mayAccept c ct .main

end Sys2Proof.Machine
end

