-- ==== Sys2Proof/Laws/Keeps.lean ====
section
/-! SUPPORT. What no step on a bus changes: the addresses, the environment, a poller's being in its ranges; and that the end of the
open-line window never moves back. -/

namespace Sys2Proof.Machine

/-- A node keeps its address and, if its poller is in its ranges, that too. -/
structure NodeKeeps (p : Params) (n n' : Node) : Prop where
  addr : n'.addr = n.addr
  poller : PollerInv p n.poller → PollerInv p n'.poller

/-- A bus keeps its nodes so, and its environment, and its window does not move back. -/
structure BusKeeps (c : Ctx) (bus bus' : Bus) : Prop where
  node : ∀ id, NodeKeeps c.cfg (bus.node id) (bus'.node id)
  env : bus'.env = bus.env
  windowEnd : bus.windowEnd ≤ bus'.windowEnd

theorem BusKeeps.refl (c : Ctx) (bus : Bus) : BusKeeps c bus bus := ⟨fun _ => ⟨rfl, id⟩, rfl, le_refl _⟩

theorem BusKeeps.trans {c : Ctx} {a b d : Bus} (h : BusKeeps c a b) (h' : BusKeeps c b d) : BusKeeps c a d :=
  ⟨fun i => ⟨(h'.node i).addr.trans (h.node i).addr, fun x => (h'.node i).poller ((h.node i).poller x)⟩,
    h'.env.trans h.env, h.windowEnd.trans h'.windowEnd⟩

/-- A bus with the same nodes, environment and window. -/
theorem BusKeeps.of_same {c : Ctx} {bus bus' : Bus} (h : ∀ i, bus'.node i = bus.node i) (he : bus'.env = bus.env)
    (hw : bus.windowEnd ≤ bus'.windowEnd) : BusKeeps c bus bus' :=
  ⟨fun i => by rw [h i]; exact ⟨rfl, id⟩, he, hw⟩

theorem Bus.raise_keeps (c : Ctx) (bus : Bus) (x : Cond) : BusKeeps c bus (bus.raise x) :=
  .of_same (fun i => by simp) rfl (le_refl _)

/-- Changing one node by something that keeps it. -/
theorem Bus.updNode_keeps {c : Ctx} {bus : Bus} {i : NodeId} {f : Node → Node}
    (h : NodeKeeps c.cfg (bus.node i) (f (bus.node i))) : BusKeeps c bus (bus.updNode i f) := by
  refine ⟨fun j => ?_, by simp, by simp⟩
  rw [Bus.node_updNode]
  split
  · next hj => subst hj; exact h
  · exact ⟨rfl, id⟩

theorem neutral_length (l : CondLayout) : (neutralCondition l).buttons.length = numButtons l := by
  simp [neutralCondition, numButtons]

theorem Node.attach_keeps (p : Params) (n : Node) : NodeKeeps p n (n.attach p) :=
  ⟨rfl, fun _ => ⟨by simp [Node.attach, Node.emit, disconnectThreshold], neutral_length _⟩⟩

theorem Node.detach_keeps (p : Params) (n : Node) : NodeKeeps p n n.detach := ⟨rfl, fun h => ⟨h.1, h.2⟩⟩

theorem Node.setConnected_keeps (p : Params) (st : Bool) (n : Node) : NodeKeeps p n (n.setConnected st) := by
  simp only [Node.setConnected]
  split
  · exact ⟨rfl, fun h => ⟨h.1, h.2⟩⟩
  · exact ⟨rfl, id⟩

theorem Node.latch_keeps (p : Params) (len cmd : Byte) (pl : List Word) (n : Node) :
    NodeKeeps p n (n.latch len cmd pl) := ⟨rfl, fun h => ⟨h.1, h.2⟩⟩

theorem Node.takeData_keeps (p : Params) (n : Node) : NodeKeeps p n (n.takeData p) := by
  simp only [Node.takeData]
  split
  · exact ⟨rfl, fun _ => ⟨by simp [Node.emit, disconnectThreshold], by simp [Node.emit, decodeCondition, numButtons]⟩⟩
  · exact ⟨rfl, fun h => ⟨by simp [disconnectThreshold], h.2⟩⟩

theorem Bus.write_keeps (c : Ctx) (bus : Bus) (cmd rcp : Byte) (pl : List Word) (len : Byte) (e : Bool) (rt : Word) :
    BusKeeps c bus (bus.write c cmd rcp pl len e rt).1 := by
  refine .of_same (fun i => Bus.write_node ..) ?_ ?_ <;>
    rcases bus.write_cases c cmd rcp pl len e rt with ⟨_, h⟩ | ⟨_, _, h⟩ | ⟨_, _, h⟩ <;> rw [h] <;>
    simp only [Bus.raise, Bus.instant, le_refl] <;> omega

theorem Bus.setConnected_keeps (c : Ctx) (bus : Bus) (i : NodeId) (st : Bool) :
    BusKeeps c bus (bus.setConnected i st) := by
  refine ⟨fun j => ?_, by simp, by simp⟩
  rw [Bus.node_setConnected]
  split
  · exact Node.setConnected_keeps ..
  · exact ⟨rfl, id⟩

theorem Bus.disconnectSubs_keeps (c : Ctx) (bus : Bus) : BusKeeps c bus bus.disconnectSubs := by
  refine ⟨fun j => ?_, rfl, le_refl _⟩
  cases j with
  | main => exact ⟨rfl, id⟩
  | sub i =>
    rw [show bus.disconnectSubs.node (.sub i) = (bus.node (.sub i)).setConnected false by simp [Bus.disconnectSubs]]
    exact Node.setConnected_keeps ..

theorem Bus.handleData_keeps (c : Ctx) (bus : Bus) (i : NodeId) (len cmd : Byte) (pl : List Word) :
    BusKeeps c bus (bus.handleData c i len cmd pl).1 := by
  simp only [Bus.handleData]
  split
  · simp only []
    split
    · exact (bus.setConnected_keeps c i true).trans (Bus.updNode_keeps (Node.attach_keeps ..))
    · exact bus.setConnected_keeps c i true
  · split
    · exact Bus.updNode_keeps (Node.latch_keeps ..)
    · exact bus.raise_keeps c _

theorem Bus.dispatch_keeps {c : Ctx} {bus bus' : Bus} {words : List Word} {handled : Bool}
    (h : bus.dispatch c words = .ok (bus', handled)) : BusKeeps c bus bus' := by
  obtain ⟨hdr, pl, _, ⟨rfl, _⟩ | ⟨id, _, _, _, he⟩⟩ := Bus.dispatch_ok h
  · exact bus.raise_keeps c _
  · rw [show bus' = _ from congrArg Prod.fst he]; exact Bus.handleData_keeps ..

theorem Bus.consumeFrame_keeps {c : Ctx} {bus bus' : Bus} (h : bus.consumeFrame c = .ok bus') : BusKeeps c bus bus' := by
  have h0 : BusKeeps c bus { bus with t := { bus.t with lvNew := false } } :=
    .of_same (fun i => by cases i <;> rfl) rfl (le_refl _)
  obtain ⟨words, _, ⟨_, rfl⟩ | ⟨_, _, handled, hd⟩⟩ := Bus.consumeFrame_ok h
  · exact h0
  · exact h0.trans (Bus.dispatch_keeps hd)

/-- Setting a poller's fields with the counter and the Condition in their ranges. -/
theorem Bus.updPoller_keeps {c : Ctx} {bus : Bus} {i : NodeId} {f : Poller → Poller}
    (h : PollerInv c.cfg (bus.node i).poller → PollerInv c.cfg (f (bus.node i).poller)) :
    BusKeeps c bus (bus.updPoller i f) := Bus.updNode_keeps ⟨rfl, h⟩

theorem Bus.poll_keeps (c : Ctx) (ct : Nat) (bus : Bus) (i : NodeId) : BusKeeps c bus (bus.poll c ct i) := by
  simp only [Bus.poll]
  split
  · exact (Bus.write_keeps ..).trans (Bus.updPoller_keeps fun h => ⟨h.1, h.2⟩)
  · exact Bus.write_keeps ..

theorem Bus.probe_keeps (c : Ctx) (ct : Nat) (bus : Bus) (i : NodeId) : BusKeeps c bus (bus.probe c ct i) := by
  simp only [Bus.probe]
  split
  · exact (Bus.write_keeps ..).trans (Bus.updNode_keeps ⟨rfl, id⟩)
  · exact Bus.write_keeps ..

theorem Bus.transition1_keeps (c : Ctx) (bus : Bus) (i : NodeId) : BusKeeps c bus (bus.transition1 c i) := by
  simp only [Bus.transition1]
  split
  · have h : BusKeeps c bus (bus.updNode i (Node.takeData c.cfg)) := Bus.updNode_keeps (Node.takeData_keeps ..)
    split
    · exact h
    · exact h.trans (Bus.raise_keeps ..)
  · exact .refl ..

theorem Bus.transition2_keeps (c : Ctx) (ct : Nat) (bus : Bus) (i : NodeId) :
    BusKeeps c bus (bus.transition2 c ct i).1 := by
  simp only [Bus.transition2, Bus.missedPoll]
  split
  · split
    · split
      · refine (Bus.raise_keeps c bus .missedPoll).trans (BusKeeps.trans (Bus.updPoller_keeps fun h => ⟨?_, ?_⟩) (Bus.raise_keeps ..))
        · simp [disconnectThreshold]
        · exact neutral_length _
      · next hn =>
        have h : BusKeeps c bus ((bus.raise .missedPoll).updPoller i
            fun q => { q with noData := q.noData + 1, waiting := false }) := by
          refine (Bus.raise_keeps c bus .missedPoll).trans (Bus.updPoller_keeps fun h => ⟨?_, h.2⟩)
          have := h.noData_lt
          rw [Bus.node_raise] at this ⊢
          simp only
          omega
        simp only []
        split
        · exact h.trans (Bus.poll_keeps ..)
        · exact h
    · exact Bus.poll_keeps ..
  · exact .refl ..

theorem Bus.tick_keeps (c : Ctx) (ct : Nat) (bus : Bus) (i : NodeId) : BusKeeps c bus (bus.tick c ct i).1 :=
  (bus.transition1_keeps c i).trans (Bus.transition2_keeps ..)

theorem Bus.ownWork_keeps (c : Ctx) (ct : Nat) (bus : Bus) (i : NodeId) : BusKeeps c bus (bus.ownWork c ct i) := by
  simp only [Bus.ownWork]
  split
  · split
    · split
      · exact Bus.tick_keeps ..
      · exact ((Bus.tick_keeps ..).trans (Bus.updNode_keeps (Node.detach_keeps ..))).trans (Bus.setConnected_keeps ..)
    · exact .refl ..
  · split
    · exact Bus.probe_keeps ..
    · exact .refl ..

theorem Bus.fanOut_keeps (c : Ctx) (ct : Nat) (bus : Bus) : BusKeeps c bus (bus.fanOut c ct) := by
  have key : ∀ (l : List (Fin 5)) (d : Bus), BusKeeps c d (l.foldl (fun b i => b.ownWork c ct (.sub i)) d) := by
    intro l
    induction l with
    | nil => intro d; exact .refl ..
    | cons i l ih => intro d; exact (d.ownWork_keeps c ct (.sub i)).trans (ih _)
  exact key _ _

theorem Bus.task_keeps {c : Ctx} {ct : Nat} {bus bus' : Bus} {i : NodeId} (h : bus.task c ct i = .ok bus') :
    BusKeeps c bus bus' := by
  cases i with
  | sub i => cases h; exact bus.ownWork_keeps c ct (.sub i)
  | main =>
    simp only [Bus.task] at h
    split at h
    · cases h
    · next b hb =>
      cases h
      have h0 := (Bus.consumeFrame_keeps hb).trans (b.ownWork_keeps c ct .main)
      split
      · exact h0.trans (Bus.fanOut_keeps ..)
      · exact h0

/-- A completion event or an engine's micro-step leaves the nodes, the environment and the window as they are. -/
theorem engineStep_same {c : Ctx} {bus bus' : Bus} {i : Instr} (he : engineStep i = true)
    (h : busEffect c bus i = .ok bus') :
    bus'.main = bus.main ∧ bus'.subs = bus.subs ∧ bus'.env = bus.env ∧ bus'.windowEnd = bus.windowEnd := by
  have hj : ∀ (b : Bus) (bytes : List Byte) (n : Nat), (b.judge c bytes n).main = b.main ∧
      (b.judge c bytes n).subs = b.subs ∧ (b.judge c bytes n).env = b.env ∧
      (b.judge c bytes n).windowEnd = b.windowEnd := by
    intro b bytes n
    rcases b.judge_cases c bytes n with h | h | ⟨p, _, _, h⟩ <;> rw [h] <;> exact ⟨rfl, rfl, rfl, rfl⟩
  have htc : ∀ {b b' : Bus}, b.takeTxComplete c = .ok b' →
      b'.main = b.main ∧ b'.subs = b.subs ∧ b'.env = b.env ∧ b'.windowEnd = b.windowEnd := by
    intro b b' h
    rcases Bus.takeTxComplete_ok h with ⟨_, ⟨_, rfl⟩ | ⟨_, rfl⟩⟩ <;> exact ⟨rfl, rfl, rfl, rfl⟩
  have hrc : ∀ {b b' : Bus} {n : Nat}, b.takeRxComplete c n = .ok b' →
      b'.main = b.main ∧ b'.subs = b.subs ∧ b'.env = b.env ∧ b'.windowEnd = b.windowEnd := by
    intro b b' n h
    rcases Bus.takeRxComplete_ok h with ⟨_, ⟨_, rfl⟩ | ⟨_, _, bytes, _, rfl⟩⟩
    · exact ⟨rfl, rfl, rfl, rfl⟩
    · exact hj _ bytes n
  have hsym : ∀ {b b' : Bus} {ph : RxPhase} {f : Bus → Except Refusal Bus}, b.onSymbol ph f = .ok b' →
      (∀ d, f b = .ok d → d.main = b.main ∧ d.subs = b.subs ∧ d.env = b.env ∧ d.windowEnd = b.windowEnd) →
      b'.main = b.main ∧ b'.subs = b.subs ∧ b'.env = b.env ∧ b'.windowEnd = b.windowEnd := by
    intro b b' ph f h hf
    rcases Bus.onSymbol_ok h with ⟨_, rfl⟩ | ⟨_, _, _, h⟩
    · exact ⟨rfl, rfl, rfl, rfl⟩
    · exact hf _ h
  cases i with
  | txComplete => exact htc h
  | rxComplete => exact hrc h
  | txStart =>
    simp only [busEffect, Bus.txStart] at h
    split at h <;> cases h
    exact ⟨rfl, rfl, rfl, rfl⟩
  | txBit =>
    simp only [busEffect, Bus.txBit] at h
    split at h
    · split at h <;> cases h
      exact ⟨rfl, rfl, rfl, rfl⟩
    · cases h
  | txEnd =>
    simp only [busEffect, Bus.txEnd] at h
    split at h
    · have h1 := htc h
      exact h1
    · cases h
  | rxWaitStart b y =>
    simp only [busEffect, Bus.rxWaitStart] at h
    refine hsym h fun d hd => ?_
    split at hd <;> cases hd <;> exact ⟨rfl, rfl, rfl, rfl⟩
  | rxBit b bit =>
    simp only [busEffect, Bus.rxBit] at h
    exact hsym h fun d hd => by cases hd; exact ⟨rfl, rfl, rfl, rfl⟩
  | rxEnd =>
    simp only [busEffect, Bus.rxEnd] at h
    exact hsym h fun d hd => by have h1 := hrc hd; exact h1
  | rxBad =>
    simp only [busEffect, Bus.rxBad] at h
    exact hsym h fun d hd => by cases hd; exact ⟨rfl, rfl, rfl, rfl⟩
  | _ => simp [engineStep] at he

/-- Every step keeps what `BusKeeps` says. -/
theorem busEffect_keeps {c : Ctx} {bus bus' : Bus} {i : Instr} (h : busEffect c bus i = .ok bus') :
    BusKeeps c bus bus' := by
  by_cases he : engineStep i = true
  · obtain ⟨h1, h2, h3, h4⟩ := engineStep_same he h
    exact .of_same (fun j => by cases j <;> simp [h1, h2]) h3 h4.ge
  · cases i <;> simp only [busEffect, engineStep, not_true_eq_false, Except.ok.injEq] at h he
    case write => split at h <;> cases h; exact Bus.write_keeps ..
    case getReadData =>
      cases hg : bus.getReadData with
      | error e => rw [hg] at h; cases h
      | ok r =>
        obtain ⟨b', ws, l, n⟩ := r
        rw [hg] at h; cases h
        obtain ⟨_, _, _, rfl⟩ := Bus.getReadData_ok hg
        exact .of_same (fun j => by cases j <;> rfl) rfl (le_refl _)
    case processEvents =>
      subst h
      refine .of_same (fun j => ?_) ?_ ?_ <;> simp only [Bus.processEvents] <;> split <;> try split
      all_goals rfl
    case nodeHandleData => split at h <;> cases h; exact Bus.handleData_keeps ..
    case nodeTask => exact Bus.task_keeps h
    case nodeSetConnected => subst h; exact Bus.setConnected_keeps ..
    case nodeMainPeripheralDisconnected => split at h <;> cases h; exact Bus.disconnectSubs_keeps ..
    case mainDispatch =>
      split at h
      · cases h
      · split at h
        · cases h
        · cases hd : bus.dispatch c _ with
          | error e => rw [hd] at h; cases h
          | ok r => rw [hd] at h; cases h; exact Bus.dispatch_keeps hd
    case pollerTick => split at h <;> cases h; exact Bus.tick_keeps ..
    case pollerAttach => subst h; exact Bus.updNode_keeps (Node.attach_keeps ..)
    case pollerDetach => subst h; exact Bus.updNode_keeps (Node.detach_keeps ..)
    all_goals subst h; exact .refl ..

end Sys2Proof.Machine
end

