-- ==== Sys2Proof/Laws/PerInstr.lean ====
section
/-! SUPPORT. The family `Selector`, one lemma per constructor: the encoded step starts with its selector, a selector the
spec lists (R101 to R103), so none of them is reserved (R107). -/

namespace Sys2Proof.Laws

/-- The selectors of R101, R102 and R103. -/
def listedSelectors : List Byte :=
  [0x00, 0x01, 0x02, 0x03, 0x04, 0x05, 0x06, 0x08, 0x09, 0x0A, 0x10, 0x11, 0x12, 0x13, 0x14, 0x15, 0x18, 0x19, 0x1A,
    0x1B, 0x40, 0x41, 0x80, 0x81, 0x84, 0x85, 0x86, 0x88, 0x89, 0x8A, 0x8B]

/-- The first byte of the encoding is the step's selector, and the spec lists it. -/
def Selector.Statement (i : Instr) : Prop := (encode i).head? = some i.selector ∧ i.selector ∈ listedSelectors

theorem Selector.computeCrc (bytes : List Byte) (n : Nat) : Selector.Statement (.computeCrc bytes n) :=
  ⟨rfl, by simp [Instr.selector, listedSelectors]⟩

theorem Selector.encode (command senderAddr recipientAddr : Byte) (payload : List Word) (len : Byte) :
    Selector.Statement (.encode command senderAddr recipientAddr payload len) :=
  ⟨rfl, by simp [Instr.selector, listedSelectors]⟩

theorem Selector.validate (bytes : List Byte) (n : Nat) : Selector.Statement (.validate bytes n) :=
  ⟨rfl, by simp [Instr.selector, listedSelectors]⟩

theorem Selector.parse (bytes : List Byte) (n : Nat) : Selector.Statement (.parse bytes n) :=
  ⟨rfl, by simp [Instr.selector, listedSelectors]⟩

theorem Selector.getRecipientAddress (player : Byte) (target : Target) :
    Selector.Statement (.getRecipientAddress player target) :=
  ⟨rfl, by simp [Instr.selector, listedSelectors]⟩

theorem Selector.subPeripheralMask (addr : Byte) : Selector.Statement (.subPeripheralMask addr) :=
  ⟨rfl, by simp [Instr.selector, listedSelectors]⟩

theorem Selector.subPeripheralIndex (addr : Byte) : Selector.Statement (.subPeripheralIndex addr) :=
  ⟨rfl, by simp [Instr.selector, listedSelectors]⟩

theorem Selector.write (bus : BusId) (command recipientAddr : Byte) (payload : List Word) (len : Byte) (expectResponse : Bool)
    (readTimeout : Word) :
    Selector.Statement (.write bus command recipientAddr payload len expectResponse readTimeout) :=
  ⟨rfl, by simp [Instr.selector, listedSelectors]⟩

theorem Selector.getReadData (bus : BusId) : Selector.Statement (.getReadData bus) :=
  ⟨rfl, by simp [Instr.selector, listedSelectors]⟩

theorem Selector.processEvents (bus : BusId) (currentTime : Nat) : Selector.Statement (.processEvents bus currentTime) :=
  ⟨rfl, by simp [Instr.selector, listedSelectors]⟩

theorem Selector.nodeHandleData (bus : BusId) (node : NodeId) (len cmd : Byte) (payload : List Word) :
    Selector.Statement (.nodeHandleData bus node len cmd payload) :=
  ⟨rfl, by simp [Instr.selector, listedSelectors]⟩

theorem Selector.nodeTask (bus : BusId) (node : NodeId) (currentTime : Nat) :
    Selector.Statement (.nodeTask bus node currentTime) :=
  ⟨rfl, by simp [Instr.selector, listedSelectors]⟩

theorem Selector.nodeSetConnected (bus : BusId) (node : NodeId) (state : Bool) :
    Selector.Statement (.nodeSetConnected bus node state) :=
  ⟨rfl, by simp [Instr.selector, listedSelectors]⟩

theorem Selector.nodeMainPeripheralDisconnected (bus : BusId) (node : NodeId) :
    Selector.Statement (.nodeMainPeripheralDisconnected bus node) :=
  ⟨rfl, by simp [Instr.selector, listedSelectors]⟩

theorem Selector.nodeIsPresent (bus : BusId) (node : NodeId) : Selector.Statement (.nodeIsPresent bus node) :=
  ⟨rfl, by simp [Instr.selector, listedSelectors]⟩

theorem Selector.mainDispatch (bus : BusId) (words : List Word) (length : Nat) :
    Selector.Statement (.mainDispatch bus words length) :=
  ⟨rfl, by simp [Instr.selector, listedSelectors]⟩

theorem Selector.pollerTick (bus : BusId) (node : NodeId) (currentTime : Nat) :
    Selector.Statement (.pollerTick bus node currentTime) :=
  ⟨rfl, by simp [Instr.selector, listedSelectors]⟩

theorem Selector.pollerAttach (bus : BusId) (node : NodeId) : Selector.Statement (.pollerAttach bus node) :=
  ⟨rfl, by simp [Instr.selector, listedSelectors]⟩

theorem Selector.pollerDetach (bus : BusId) (node : NodeId) : Selector.Statement (.pollerDetach bus node) :=
  ⟨rfl, by simp [Instr.selector, listedSelectors]⟩

theorem Selector.condDecode (w0 w1 : Word) : Selector.Statement (.condDecode w0 w1) :=
  ⟨rfl, by simp [Instr.selector, listedSelectors]⟩

theorem Selector.txComplete (bus : BusId) : Selector.Statement (.txComplete bus) :=
  ⟨rfl, by simp [Instr.selector, listedSelectors]⟩

theorem Selector.rxComplete (bus : BusId) (count : Nat) : Selector.Statement (.rxComplete bus count) :=
  ⟨rfl, by simp [Instr.selector, listedSelectors]⟩

theorem Selector.crcClear : Selector.Statement (.crcClear) :=
  ⟨rfl, by simp [Instr.selector, listedSelectors]⟩

theorem Selector.crcUpdate (byte : Byte) : Selector.Statement (.crcUpdate byte) :=
  ⟨rfl, by simp [Instr.selector, listedSelectors]⟩

theorem Selector.txStart (bus : BusId) : Selector.Statement (.txStart bus) :=
  ⟨rfl, by simp [Instr.selector, listedSelectors]⟩

theorem Selector.txBit (bus : BusId) : Selector.Statement (.txBit bus) :=
  ⟨rfl, by simp [Instr.selector, listedSelectors]⟩

theorem Selector.txEnd (bus : BusId) : Selector.Statement (.txEnd bus) :=
  ⟨rfl, by simp [Instr.selector, listedSelectors]⟩

theorem Selector.rxWaitStart (bus : BusId) (symbol : Symbol) : Selector.Statement (.rxWaitStart bus symbol) :=
  ⟨rfl, by simp [Instr.selector, listedSelectors]⟩

theorem Selector.rxBit (bus : BusId) (b : ClockedBit) : Selector.Statement (.rxBit bus b) :=
  ⟨rfl, by simp [Instr.selector, listedSelectors]⟩

theorem Selector.rxEnd (bus : BusId) : Selector.Statement (.rxEnd bus) :=
  ⟨rfl, by simp [Instr.selector, listedSelectors]⟩

theorem Selector.rxBad (bus : BusId) : Selector.Statement (.rxBad bus) :=
  ⟨rfl, by simp [Instr.selector, listedSelectors]⟩

end Sys2Proof.Laws
end

