-- ==== Sys2Proof/Tests/Slice0.lean ====
section
/-! SUPPORT. The tests: ill-formed terms that the checks refuse, a word written out by hand for every constructor, the vectors of
spec/95_test_vectors.md as single steps, and for every statement with hypotheses a state and operands that meet them. -/

namespace Sys2Proof.Tests

open Sys2Proof.Machine

/-! ## The test instantiation of 95_test_vectors.md section 1 (its numbers are that file's arbitrary choice) -/

/-- `COND_LAYOUT` of TI. -/
def tiLayout : CondLayout :=
  { buttonBits := [48, 49, 50, 51, 52, 53, 54, 55]
    padUp := 56, padDown := 57, padLeft := 58, padRight := 59
    triggerLeft := 40, triggerRight := 32, thumbXLeft := 24, thumbYLeft := 16, thumbXRight := 8, thumbYRight := 0 }

/-- The parameters of TI; its line shapes are not given there, these keep the sums of R7. -/
def ti : Params :=
  { extraBuses := 0, player0 := 0, player1 := 1, player2 := 2, player3 := 3
    hdrLayout := .cmdFirst
    bitPeriodNs := 500
    startSeq := [⟨.low, .release, 1000⟩, ⟨.low, .low, 1000⟩], endSeq := [⟨.release, .low, 2000⟩]
    bitWave00 := [⟨.low, .low, 500⟩], bitWave01 := [⟨.low, .release, 500⟩]
    bitWave10 := [⟨.low, .low, 500⟩], bitWave11 := [⟨.release, .low, 500⟩]
    firstClockLine := .a
    openLineCheckUs := 10
    writeTimeoutUs := (List.range 256).map (fun l => 32 * (1 + l) + 8 + 200)
    pollPeriodUs := 16000, repollOnMiss := false, probePeriodUs := 100000
    probeReadTimeoutUs := 1000, condReadTimeoutUs := 1000
    cmdDeviceInfoRequest := 0x01, cmdDeviceInfoResponse := 0x05, cmdGetCondition := 0x09, cmdDataTransfer := 0x08
    condReqPayload := [1], condRespLen := 2
    condLayout := tiLayout
    isController := .both (.lenAtLeast 1) (.wordIs 0 1) }

/-- A poller slot with nothing in it. -/
def slot : Poller :=
  { attached := false, cond := neutralCondition tiLayout, waiting := false, noData := 0, nextCheck := 0, newData := false
    rxCmd := 0, rxLen := 0, rxW0 := 0, rxW1 := 0 }

/-- An absent node. -/
def absent (id : NodeId) : Node :=
  { addr := nodeAddress 0 id, present := false, nextProbe := 0, poller := slot, calls := [] }

/-- A transport at rest. -/
def restT : Transport :=
  { hostAddr := 0, wb := [], wbLen := 0, rb := [], rbCount := 0, lv := [], lvLen := 0, lvNew := false
    writeBusy := false, readBusy := false, deadline := 0, expectResponse := false, readTimeout := 0
    txPhase := .idle, txBit := 0, driveA := .release, driveB := .release
    rxPhase := .off, rxShift := 0, rxBitCnt := 0, rxCrc := 0, rxOverflow := false, rxBad := false }

/-- A bus at rest with idle lines and every node absent. -/
def rest : Bus :=
  { t := restT, main := absent .main
    subs :=
      { s0 := absent (.sub 0), s1 := absent (.sub 1), s2 := absent (.sub 2), s3 := absent (.sub 3), s4 := absent (.sub 4) }
    wireTx := [], raised := [], env := [], windowEnd := 0 }

/-- One bus, at `now`. -/
def at' (now : Nat) (bus : Bus) : State :=
  { cfg := ti, now := now, crc := 0, buses := [bus], ret := .none, input := [] }

/-- The value a completed step hands back. -/
def retOf : Host.Outcome State Fault Refusal → Option Ret
  | .next s => some s.ret
  | _ => none

/-- Something of bus 0 after a completed step. -/
def after {α : Type} (o : Host.Outcome State Fault Refusal) (f : Bus → α) : Option α :=
  match o with
  | .next s => s.buses.head?.map f
  | _ => none

/-- Why a step stopped. -/
def refusal : Host.Outcome State Fault Refusal → Option Refusal
  | .refused r => some r
  | _ => none

/-- A buffer that holds these elements from index 0. -/
def held {α : Type} (l : List α) : List (Nat × α) := writeCells [] 0 l

/-- The wire bytes of TX1, a frame of no payload. -/
def frame5 : List Byte := [0x01, 0x20, 0x00, 0x00, 0x21]

/-- The frame of ENCODE's second row. -/
def frame9 : List Byte := [0x09, 0x20, 0x00, 0x01, 0x00, 0x00, 0x00, 0x01, 0x29]

/-- Reception in progress (R210). -/
def reading : Transport := { restT with readBusy := true, rxPhase := .waitStart, deadline := 6000 }

/-- Reception complete up to END, with these bytes stored. -/
def received (l : List Byte) : Transport :=
  { reading with rxPhase := .data, rb := held l, rbCount := l.length, rxCrc := l.foldl (· ^^^ ·) 0 }

/-- The same with END taken, where RX.END hands over to RXCOMPLETE (R182). -/
def ended (l : List Byte) : Transport := { received l with rxPhase := .off }

/-- Transmission about to start (TX1). -/
def writing : Transport := { restT with wb := held frame5, wbLen := 5, writeBusy := true, txPhase := .start, deadline := 382 }

/-- A present node with an attached poller. -/
def attached (id : NodeId) : Node := { absent id with present := true, poller := { slot with attached := true } }

/-! ## Well-formedness -/

theorem test_wf_computeCrc : (Instr.computeCrc [] 65536).wf = false := by decide
theorem test_wf_validate : (Instr.validate [] 65536).wf = false := by decide
theorem test_wf_parse : (Instr.parse [] 65536).wf = false := by decide
theorem test_wf_rxComplete : (Instr.rxComplete 0 65536).wf = false := by decide
theorem test_wf_mainDispatch : (Instr.mainDispatch 0 [] 65536).wf = false := by decide
theorem test_wf_long_bytes (n : Nat) : (Instr.computeCrc (List.replicate 65536 0) n).wf = false := by
  simp only [Instr.wf, fits16, List.length_replicate]; rfl
theorem test_wf_long_bytes_validate (n : Nat) : (Instr.validate (List.replicate 65536 0) n).wf = false := by
  simp only [Instr.wf, fits16, List.length_replicate]; rfl
theorem test_wf_long_bytes_parse (n : Nat) : (Instr.parse (List.replicate 65536 0) n).wf = false := by
  simp only [Instr.wf, fits16, List.length_replicate]; rfl
theorem test_wf_encode : (Instr.encode 0 0 0 (List.replicate 65536 0) 0).wf = false := by
  simp only [Instr.wf, fits16, List.length_replicate]; rfl
theorem test_wf_write : (Instr.write 0 0 0 (List.replicate 65536 0) 0 true 0).wf = false := by
  simp only [Instr.wf, fits16, List.length_replicate]; rfl
theorem test_wf_nodeHandleData : (Instr.nodeHandleData 0 .main 0 0 (List.replicate 65536 0)).wf = false := by
  simp only [Instr.wf, fits16, List.length_replicate]; rfl
theorem test_wf_long_words (n : Nat) : (Instr.mainDispatch 0 (List.replicate 65536 0) n).wf = false := by
  simp only [Instr.wf, fits16, List.length_replicate]; rfl

theorem test_params_ti : ti.wf = true := by decide +kernel
theorem test_params_players : ({ ti with extraBuses := 1, player1 := 0 } : Params).wf = false := by decide +kernel
theorem test_params_bitPeriod : ({ ti with bitPeriodNs := 0 } : Params).wf = false := by decide +kernel
theorem test_params_bitWave00 : ({ ti with bitWave00 := [] } : Params).wf = false := by decide +kernel
theorem test_params_bitWave01 : ({ ti with bitWave01 := [] } : Params).wf = false := by decide +kernel
theorem test_params_bitWave10 : ({ ti with bitWave10 := [] } : Params).wf = false := by decide +kernel
theorem test_params_bitWave11 : ({ ti with bitWave11 := [] } : Params).wf = false := by decide +kernel
theorem test_params_timeouts : ({ ti with writeTimeoutUs := [] } : Params).wf = false := by decide +kernel
theorem test_params_short_timeout : ({ ti with writeTimeoutUs := List.replicate 256 30 } : Params).wf = false := by
  decide +kernel
theorem test_params_pollPeriod : ({ ti with pollPeriodUs := 0 } : Params).wf = false := by decide +kernel
theorem test_params_probePeriod : ({ ti with probePeriodUs := 0 } : Params).wf = false := by decide +kernel
theorem test_params_codes : ({ ti with cmdDeviceInfoResponse := 0x08 } : Params).wf = false := by decide +kernel
theorem test_params_reqPayload : ({ ti with condReqPayload := List.replicate 256 0 } : Params).wf = false := by
  decide +kernel
theorem test_params_respLen : ({ ti with condRespLen := 1 } : Params).wf = false := by decide +kernel
theorem test_params_fewButtons : ({ ti with condLayout := { tiLayout with buttonBits := [48] } } : Params).wf = false := by
  decide +kernel
theorem test_params_manyButtons :
    ({ ti with condLayout := { tiLayout with buttonBits := [48, 49, 50, 51, 52, 53, 54, 55, 60, 61, 62, 63, 47] } }
      : Params).wf = false := by decide +kernel
theorem test_params_overlap : ({ ti with condLayout := { tiLayout with padUp := 48 } } : Params).wf = false := by
  decide +kernel

/-! ## Words written out by hand: selectors of R101 to R103, operands after log entry 7 -/

theorem test_decode_computeCrc : decode [0x00, 0x02, 0x00, 0xAA, 0x55, 0x02, 0x00] = .ok (.computeCrc [0xAA, 0x55] 2, []) := rfl
theorem test_decode_encode : decode [0x01, 0x09, 0x40, 0x20, 0x01, 0x00, 0xEF, 0xBE, 0xAD, 0xDE, 0x01] =
    .ok (.encode 0x09 0x40 0x20 [0xDEADBEEF] 1, []) := rfl
theorem test_decode_validate : decode [0x02, 0x01, 0x00, 0x77, 0x05, 0x04] = .ok (.validate [0x77] 0x0405, []) := rfl
theorem test_decode_parse : decode [0x03, 0x00, 0x00, 0x05, 0x00] = .ok (.parse [] 5, []) := rfl
theorem test_decode_getRecipientAddress : decode [0x04, 0x03, 0x00] = .ok (.getRecipientAddress 3 .main, []) := rfl
theorem test_decode_getRecipientAddress_sub : decode [0x04, 0x01, 0x01, 0x02] = .ok (.getRecipientAddress 1 (.sub 2), []) := rfl
theorem test_decode_subPeripheralMask : decode [0x05, 0xD0] = .ok (.subPeripheralMask 0xD0, []) := rfl
theorem test_decode_subPeripheralIndex : decode [0x06, 0x21] = .ok (.subPeripheralIndex 0x21, []) := rfl
theorem test_decode_write : decode [0x08, 0x01, 0x09, 0x20, 0x01, 0x00, 0x01, 0x00, 0x00, 0x00, 0x01, 0x00, 0xE8, 0x03, 0x00, 0x00] =
    .ok (.write 1 0x09 0x20 [1] 1 false 1000, []) := rfl
theorem test_decode_getReadData : decode [0x09, 0x03] = .ok (.getReadData 3, []) := rfl
theorem test_decode_processEvents : decode [0x0A, 0x00, 0xAC, 0x02] = .ok (.processEvents 0 300, []) := rfl
theorem test_decode_nodeHandleData : decode [0x10, 0x00, 0x01, 0x01, 0x05, 0x01, 0x00, 0x01, 0x00, 0x00, 0x00] =
    .ok (.nodeHandleData 0 (.sub 0) 1 0x05 [1], []) := rfl
theorem test_decode_nodeTask : decode [0x11, 0x02, 0x05, 0x7F] = .ok (.nodeTask 2 (.sub 4) 127, []) := rfl
theorem test_decode_nodeSetConnected : decode [0x12, 0x00, 0x00, 0x01] = .ok (.nodeSetConnected 0 .main true, []) := rfl
theorem test_decode_nodeMainPeripheralDisconnected :
    decode [0x13, 0x00, 0x00] = .ok (.nodeMainPeripheralDisconnected 0 .main, []) := rfl
theorem test_decode_nodeIsPresent : decode [0x14, 0x01, 0x02] = .ok (.nodeIsPresent 1 (.sub 1), []) := rfl
theorem test_decode_mainDispatch : decode [0x15, 0x00, 0x01, 0x00, 0x00, 0x20, 0x00, 0x01, 0x01, 0x00] =
    .ok (.mainDispatch 0 [0x01002000] 1, []) := rfl
theorem test_decode_pollerTick : decode [0x18, 0x00, 0x03, 0x80, 0x01] = .ok (.pollerTick 0 (.sub 2) 128, []) := rfl
theorem test_decode_pollerAttach : decode [0x19, 0x00, 0x00] = .ok (.pollerAttach 0 .main, []) := rfl
theorem test_decode_pollerDetach : decode [0x1A, 0x03, 0x04] = .ok (.pollerDetach 3 (.sub 3), []) := rfl
theorem test_decode_condDecode : decode [0x1B, 0x80, 0x80, 0xFE, 0xFF, 0x01, 0x02, 0x03, 0x04] =
    .ok (.condDecode 0xFFFE8080 0x04030201, []) := rfl
theorem test_decode_txComplete : decode [0x40, 0x02] = .ok (.txComplete 2, []) := rfl
theorem test_decode_rxComplete : decode [0x41, 0x00, 0x05, 0x04] = .ok (.rxComplete 0 1029, []) := rfl
theorem test_decode_crcClear : decode [0x80] = .ok (.crcClear, []) := rfl
theorem test_decode_crcUpdate : decode [0x81, 0x5A, 0x99] = .ok (.crcUpdate 0x5A, [0x99]) := rfl
theorem test_decode_txStart : decode [0x84, 0x00] = .ok (.txStart 0, []) := rfl
theorem test_decode_txBit : decode [0x85, 0x01] = .ok (.txBit 1, []) := rfl
theorem test_decode_txEnd : decode [0x86, 0x00] = .ok (.txEnd 0, []) := rfl
theorem test_decode_rxWaitStart : decode [0x88, 0x00, 0x02] = .ok (.rxWaitStart 0 .bad, []) := rfl
theorem test_decode_rxBit : decode [0x89, 0x00, 0x01, 0x01] = .ok (.rxBit 0 ⟨true, .b⟩, []) := rfl
theorem test_decode_rxEnd : decode [0x8A, 0x00] = .ok (.rxEnd 0, []) := rfl
theorem test_decode_rxBad : decode [0x8B, 0x00] = .ok (.rxBad 0, []) := rfl
theorem test_decode_reserved : decode [0x07, 0x00] = .error (.reservedSelector 0x07) := rfl
theorem test_decode_truncated : decode [0x08, 0x00] = .error .truncated := rfl
theorem test_decode_badBus : decode [0x09, 0x04] = .error .badOperand := rfl
theorem test_decode_symbol : decode [0x88, 0x00, 0x07] = .ok (.rxWaitStart 0 (.bit ⟨true, .b⟩), []) := rfl
theorem test_decode_badSymbol : decode [0x88, 0x00, 0x03] = .error .badOperand := rfl
theorem test_decode_badNode : decode [0x14, 0x00, 0x06] = .error .badOperand := rfl

/-! ## Codec and address vectors (95_test_vectors.md sections 3 and 4) -/

theorem test_computeCrc : retOf (exec (.computeCrc [0x12, 0x34, 0x56, 0x78] 4) (at' 0 rest)) = some (.crc 0x08) := by decide
theorem test_computeCrc_none : retOf (exec (.computeCrc [] 0) (at' 0 rest)) = some (.crc 0) := by decide
theorem test_encode : retOf (exec (.encode 0x09 0xC0 0xE0 [1] 1) (at' 0 rest)) =
    some (.wire [0x09, 0xE0, 0xC0, 0x01, 0x00, 0x00, 0x00, 0x01, 0x29] 9) := by decide
theorem test_encode_byte_order : retOf (exec (.encode 0x0C 0x00 0x01 [0xDEADBEEF, 0x01234567, 0x89ABCDEF] 3) (at' 0 rest)) =
    some (.wire [0x0C, 0x01, 0x00, 0x03, 0xDE, 0xAD, 0xBE, 0xEF, 0x01, 0x23, 0x45, 0x67, 0x89, 0xAB, 0xCD, 0xEF, 0x2C] 17) := by
  decide
theorem test_validate : retOf (exec (.validate [0x19, 0x20, 0x00, 0x01, 0x00, 0x10, 0x00, 0x01, 0x29] 9) (at' 0 rest)) =
    some (.bool true) := by decide
theorem test_validate_wrong : retOf (exec (.validate [0x09, 0x21, 0x00, 0x01, 0x00, 0x00, 0x00, 0x01, 0x29] 9) (at' 0 rest)) =
    some (.bool false) := by decide
theorem test_parse : retOf (exec (.parse frame5 5) (at' 0 rest)) =
    some (.parsed (some ⟨0x01, 0x20, 0x00, 0, [0x01200000], 0x21⟩)) := by decide
theorem test_parse_length : retOf (exec (.parse [0x01, 0x20, 0x00, 0x01, 0x20] 5) (at' 0 rest)) = some (.parsed none) := by
  decide
theorem test_getRecipientAddress : retOf (exec (.getRecipientAddress 3 (.sub 4)) (at' 0 rest)) = some (.addr 0xD0) := by decide
theorem test_getRecipientAddress_main : retOf (exec (.getRecipientAddress 2 .main) (at' 0 rest)) = some (.addr 0xA0) := by
  decide
theorem test_subPeripheralMask : retOf (exec (.subPeripheralMask 0x3F) (at' 0 rest)) = some (.mask 0x1F) := by decide
theorem test_subPeripheralIndex : retOf (exec (.subPeripheralIndex 0xD0) (at' 0 rest)) = some (.index 4) := by decide
theorem test_subPeripheralIndex_refused : refusal (exec (.subPeripheralIndex 0x03) (at' 0 rest)) = some .notOneHot := by decide

/-- CRC.UPDATE: `crc = 0x21`, `byte = 0x20` gives `0x01` (section 3.1). -/
theorem test_crcUpdate : exec (.crcUpdate 0x20) { at' 0 rest with crc := 0x21 } = .next { at' 0 rest with crc := 0x01 } := rfl
theorem test_crcClear : exec .crcClear { at' 0 rest with crc := 0x21 } = .next (at' 0 rest) := rfl

/-! ## Transport vectors (section 7) -/

/-- TR1. -/
theorem test_write : after (exec (.write 0 0x09 0x20 [1] 1 true 1000) (at' 100 rest)) (fun b => (b.t, b.windowEnd)) =
    some ({ restT with wb := held frame9, wbLen := 9, writeBusy := true, expectResponse := true, readTimeout := 1000
                       deadline := 382, txPhase := .start, txBit := 0 }, 110) := by decide +kernel
/-- TR2: line B low at the last instant of the window. -/
theorem test_write_line_low : retOf (exec (.write 0 0x09 0x20 [1] 1 true 1000)
    (at' 100 { rest with env := [⟨.b, 110, 200⟩] })) = some (.bool false) := by decide +kernel
/-- TR7, after reset. -/
theorem test_getReadData : retOf (exec (.getReadData 0) (at' 0 rest)) = some (.readData [] 0 false) := by decide
/-- The snapshot of program P1. -/
theorem test_getReadData_new : retOf (exec (.getReadData 0) (at' 300 { rest with t := { restT with
      lv := held [0x08002002, 0xFFFE8080, 0x80808080], lvLen := 3, lvNew := true } })) =
    some (.readData [0x08002002, 0xFFFE8080, 0x80808080] 3 true) := by decide
/-- TR3. -/
theorem test_processEvents : after (exec (.processEvents 0 382) (at' 382 { rest with t := writing }))
    (fun b => (b.t.writeBusy, b.t.txPhase, b.raised)) = some (false, .idle, [.writeTimeout]) := by decide
/-- TR3. -/
theorem test_processEvents_early : after (exec (.processEvents 0 5999) (at' 5999 { rest with t := reading }))
    (fun b => (b.t.readBusy, b.raised)) = some (true, []) := by decide
/-- TR4. -/
theorem test_txComplete : after (exec (.txComplete 0) (at' 5000 { rest with t :=
      { writing with txPhase := .idle, expectResponse := true, readTimeout := 1000 } }))
    (fun b => (b.t.writeBusy, b.t.readBusy, b.t.rxPhase, b.t.rbCount, b.t.deadline)) =
    some (false, true, .waitStart, 0, 6000) := by decide
/-- RX1. -/
theorem test_rxComplete : after (exec (.rxComplete 0 5) (at' 0 { rest with t := ended frame5 }))
    (fun b => ((readCells b.t.lv 0 1).toOption, b.t.lvLen, b.t.lvNew, b.t.readBusy)) =
    some (some [0x01200000], 1, true, false) := by decide
/-- RX7. -/
theorem test_rxComplete_crc : after (exec (.rxComplete 0 5) (at' 0 { rest with t := ended [0x01, 0x20, 0x00, 0x00, 0x20] }))
    (fun b => (b.t.lvNew, b.raised)) = some (false, [.crcMismatch]) := by decide

/-- TX.END takes TXCOMPLETE in its own step (R164); no other event is raised while the engine runs (log entry 20). -/
theorem test_txComplete_running : refusal (exec (.txComplete 0) (at' 0 { rest with t := writing })) = some .notRaised := by
  decide
/-- Its operand is the received byte count (R212, log entry 20). -/
theorem test_rxComplete_count : refusal (exec (.rxComplete 0 4) (at' 0 { rest with t := ended frame5 })) = some .notRaised := by
  decide

/-! ## Transmitter and receiver vectors (sections 5 and 6) -/

theorem test_txStart : after (exec (.txStart 0) (at' 0 { rest with t := writing }))
    (fun b => (b.t.txPhase, b.wireTx, b.t.driveA, b.t.driveB)) = some (.data, [.start], .low, .low) := by decide
/-- TX1: frame bit 39, the last, is a 1 in line phase 1, its shape BIT_WAVE(1, 1). -/
theorem test_txBit : after (exec (.txBit 0) (at' 0 { rest with t := { writing with txPhase := .data, txBit := 39 } }))
    (fun b => (b.t.txPhase, b.t.txBit, b.wireTx, b.t.driveA, b.t.driveB)) =
    some (.stop, 40, [.bit ⟨true, .b⟩], .release, .low) := by decide
/-- TX1: frame bit 10 is a 1 in line phase 0 (byte 1 is 0x20), its shape BIT_WAVE(0, 1). -/
theorem test_txBit_order : after (exec (.txBit 0) (at' 0 { rest with t := { writing with txPhase := .data, txBit := 10 } }))
    (fun b => (b.t.txPhase, b.t.txBit, b.wireTx, b.t.driveA, b.t.driveB)) =
    some (.data, 11, [.bit ⟨true, .a⟩], .low, .release) := by decide
theorem test_txEnd : after (exec (.txEnd 0) (at' 0 { rest with t :=
      { writing with txPhase := .stop, txBit := 40, driveA := .low } }))
    (fun b => (b.t.txPhase, b.t.writeBusy, b.t.driveA, b.wireTx)) = some (.idle, false, .release, [.stop]) := by decide
/-- RX2. -/
theorem test_rxWaitStart : after (exec (.rxWaitStart 0 .start) (at' 0 { rest with t := reading })) (fun b => b.t.rxPhase) =
    some .data := by decide
theorem test_rxWaitStart_drop : after (exec (.rxWaitStart 0 .stop) (at' 0 { rest with t := reading })) (fun b => b.t.rxPhase) =
    some .waitStart := by decide
/-- The shift detail of section 6, first and last symbol. -/
theorem test_rxBit : after (exec (.rxBit 0 ⟨false, .a⟩) (at' 0 { rest with t := { reading with rxPhase := .data, rxShift := 0xFF } }))
    (fun b => (b.t.rxShift, b.t.rxBitCnt)) = some (0xFE, 1) := by decide
theorem test_rxBit_last : after (exec (.rxBit 0 ⟨true, .b⟩) (at' 0 { rest with t :=
      { reading with rxPhase := .data, rxShift := 0x84, rxBitCnt := 7 } }))
    (fun b => (b.t.rb, b.t.rbCount, b.t.rxBitCnt, b.t.rxCrc)) = some ([(0, 0x09)], 1, 0, 0x09) := by decide
/-- A bit on the wrong line phase is BAD (R176). -/
theorem test_rxBit_wrong_line : after (exec (.rxBit 0 ⟨true, .b⟩) (at' 0 { rest with t := received [] }))
    (fun b => (b.t.rxPhase, b.t.rxShift, b.t.rxBitCnt)) = some (.dead, 0, 0) := by decide
/-- RX4. -/
theorem test_rxEnd : after (exec (.rxEnd 0) (at' 0 { rest with t := { received [0x01] with rxBitCnt := 4 } }))
    (fun b => (b.t.rxBad, b.t.rxPhase, b.t.readBusy, b.raised)) = some (true, .off, false, [.malformed]) := by decide
/-- RX3. -/
theorem test_rxEnd_empty : after (exec (.rxEnd 0) (at' 0 { rest with t := received [] }))
    (fun b => (b.t.rxBad, b.t.lvNew, b.raised)) = some (false, false, [.malformed]) := by decide
/-- RX5. -/
theorem test_rxBad : after (exec (.rxBad 0) (at' 0 { rest with t := received [] })) (fun b => (b.t.rxPhase, b.t.readBusy)) =
    some (.dead, true) := by decide

/-! ## Node and poller vectors (section 8) -/

theorem test_condDecode : retOf (exec (.condDecode 0x0FFE00FF 0x7F8081FE) (at' 0 rest)) =
    some (.condition { neutralCondition tiLayout with
      buttons := [true, false, false, false, false, false, false, false]
      triggerLeft := -128, triggerRight := 127, thumbXLeft := -1, thumbXRight := 1, thumbYRight := 126 }) := by decide
theorem test_condDecode_active : retOf (exec (.condDecode 0x00008080 0x80808080) (at' 0 rest)) =
    some (.condition { neutralCondition tiLayout with
      buttons := List.replicate 8 true, padUp := true, padDown := true, padLeft := true, padRight := true }) := by decide
theorem test_forwardChanges : forwardChanges 8 (neutralCondition tiLayout) (decodeCondition tiLayout 0xFFFE80FF 0x00808080) =
    [.setButton 0 true, .setAnalogTrigger false 127, .setAnalogThumb .x true (-128), .send] := by decide

/-- Row "T, 2, none, yes" of section 8.1. -/
theorem test_pollerTick_third_miss : exec (.pollerTick 0 .main 500) (at' 500 { rest with main :=
      { absent .main with poller := { slot with attached := true, waiting := true, noData := 2, nextCheck := 500 } } }) =
    .next { at' 500 { rest with main := { absent .main with poller := { slot with attached := true, nextCheck := 500 } }
                                raised := [.missedPoll, .disconnect] } with ret := .bool false } := rfl
/-- Row "T, 2, well-shaped response, no" of section 8.1. -/
theorem test_pollerTick_response : after (exec (.pollerTick 0 .main 10) (at' 10 { rest with main := { absent .main with poller :=
      { slot with attached := true, waiting := true, noData := 2, nextCheck := 500, newData := true, rxCmd := 0x08
                  rxLen := 2, rxW0 := 0xFFFE8080, rxW1 := 0x80808080 } } }))
    (fun b => (b.main.poller.waiting, b.main.poller.noData, b.main.poller.newData, b.main.calls)) =
    some (false, 0, false, [.setButton 0 true, .send]) := by decide
theorem test_pollerAttach : after (exec (.pollerAttach 0 (.sub 1)) (at' 0 rest)) (fun b => (b.subs.s1.poller.attached, b.subs.s1.calls)) =
    some (true, [.updateControllerConnected true]) := by decide
theorem test_pollerDetach : after (exec (.pollerDetach 0 .main) (at' 0 { rest with main := attached .main }))
    (fun b => (b.main.poller.attached, b.main.present, b.main.calls)) =
    some (false, true, [.updateControllerConnected false]) := by decide
/-- Section 8.5, first row. -/
theorem test_nodeHandleData : after (exec (.nodeHandleData 0 (.sub 2) 1 0x05 [1]) (at' 0 rest))
    (fun b => (b.subs.s2.present, b.subs.s2.poller.attached, b.subs.s2.calls)) =
    some (true, true, [.updateControllerConnected true]) := by decide
/-- Section 8.5, the data transfer with one word. -/
theorem test_nodeHandleData_short : after (exec (.nodeHandleData 0 .main 1 0x08 [0xAABBCCDD]) (at' 0 { rest with main := attached .main }))
    (fun b => (b.main.poller.newData, b.main.poller.rxLen, b.main.poller.rxW0, b.main.poller.rxW1)) =
    some (true, 1, 0xAABBCCDD, 0) := by decide
/-- Section 8.4: a sub-peripheral's frame while its main node is absent. -/
theorem test_mainDispatch_absent : retOf (exec (.mainDispatch 0 [0x05000400] 1) (at' 0 rest)) = some (.bool false) := by decide
/-- Section 8.4: bit 5 wins over the low bits. -/
theorem test_mainDispatch_main : after (exec (.mainDispatch 0 [0x05003F00] 1) (at' 0 rest)) (fun b => b.main.present) =
    some true := by decide
/-- The first task after reset probes the main node (program P3's start): the frame is `01 20 00 00 21`. -/
theorem test_nodeTask_probe : after (exec (.nodeTask 0 .main 1000) (at' 1000 rest))
    (fun b => ((readCells b.t.wb 0 5).toOption, b.main.nextProbe, b.t.deadline)) =
    some (some frame5, 101000, 1250) := by decide +kernel
/-- The third missed poll makes a main node and its sub-nodes absent. -/
theorem test_nodeTask_disconnect : after (exec (.nodeTask 0 .main 500) (at' 500 { rest with
      main := { absent .main with present := true, poller := { slot with attached := true, waiting := true, noData := 2 } }
      subs := { rest.subs with s2 := attached (.sub 2) } }))
    (fun b => (b.main.present, b.main.poller.attached, b.subs.s2.present, b.subs.s2.poller.attached)) =
    some (false, false, false, false) := by decide +kernel
theorem test_nodeSetConnected : after (exec (.nodeSetConnected 0 .main false) (at' 0 { rest with
      main := attached .main, subs := { rest.subs with s2 := attached (.sub 2) } }))
    (fun b => (b.main.present, b.main.calls, b.subs.s2.present, b.subs.s2.calls)) =
    some (false, [.updateControllerConnected false], false, [.updateControllerConnected false]) := by decide
theorem test_nodeMainPeripheralDisconnected : after (exec (.nodeMainPeripheralDisconnected 0 .main) (at' 0 { rest with
      main := attached .main, subs := { rest.subs with s4 := attached (.sub 4) } }))
    (fun b => (b.main.present, b.subs.s4.present)) = some (true, false) := by decide
theorem test_nodeIsPresent : retOf (exec (.nodeIsPresent 0 (.sub 3)) (at' 0 rest)) = some (.bool false) := by decide

/-! ## The step -/

/-- A scheduled step at 120 finds the clock there. -/
theorem test_step : step { at' 100 rest with input := [⟨120, [0x14, 0x00, 0x00]⟩] } =
    .next { at' 120 rest with ret := .bool false } := rfl
theorem test_step_reserved : step { at' 100 rest with input := [⟨120, [0x07]⟩] } = .refused (.reservedSelector 0x07) := rfl
/-- The table word of TX.START is decoded and run. -/
theorem test_decodeTableWord : decodeTableWord 8 0x84 = some (.txStart 0) := rfl

/-! ## Witnesses: for every statement with hypotheses, a state and operands that meet them, clause by clause -/

/-- Bus 0 of a state built by `at'` is there. -/
theorem bus_there (now : Nat) (bus : Bus) : (at' now bus).buses[(0 : BusId).val]? = some bus := rfl

/-- A bus with a pulse on line A from 5 to 7. -/
def noisy : Bus := { rest with env := [⟨.a, 5, 7⟩] }

/-- A bus with this transport. -/
def withT (t : Transport) : Bus := { rest with t := t }

/-- A bus with this main node. -/
def withMain (n : Node) : Bus := { rest with main := n }

/-- A main node whose attached poller waits, with `k` misses counted and the check due at 500. -/
def waitingMain (k : Nat) : Node :=
  { absent .main with poller := { slot with attached := true, waiting := true, noData := k, nextCheck := 500 } }

/-- The same with a data transfer of `len` words latched. -/
def latchedMain (cmd len : Byte) : Node :=
  { absent .main with poller := { slot with attached := true, newData := true, rxCmd := cmd, rxLen := len } }

theorem witness_DecodeOfEncodeIsTheStep : (Instr.write 3 0x09 0x20 [1, 2] 2 true 1000).wf = true ∧
    (Instr.rxComplete 0 65535).wf = true := by decide

theorem witness_ReservedSelectorIsRefused :
    ({ at' 0 rest with input := [⟨0, [0x07, 0x00]⟩] } : State).input = { time := 0, code := [0x07, 0x00] } :: [] ∧
    ∀ sel ∈ ([0x07, 0x0B, 0x0F, 0x16, 0x1C, 0x3F, 0x42, 0x7F, 0x82, 0x87, 0x8C, 0xFF] : List Byte),
      sel ∉ ([0x00, 0x01, 0x02, 0x03, 0x04, 0x05, 0x06, 0x08, 0x09, 0x0A, 0x10, 0x11, 0x12, 0x13, 0x14, 0x15, 0x18, 0x19,
        0x1A, 0x1B, 0x40, 0x41, 0x80, 0x81, 0x84, 0x85, 0x86, 0x88, 0x89, 0x8A, 0x8B] : List Byte) := by decide

theorem witness_StepRunsTheDecodedStep :
    ({ at' 0 rest with input := [⟨7, [0x84, 0x00, 0x55]⟩] } : State).input = { time := 7, code := [0x84, 0x00, 0x55] } :: [] ∧
    decode [0x84, 0x00, 0x55] = .ok (.txStart 0, [0x55]) := ⟨rfl, rfl⟩

theorem witness_ResetValuesOfTheSpec : ((State.resetWith { ti with extraBuses := 3 }).buses[3]?).isSome = true ∧
    ((State.resetWith ti).buses[0]?).isSome = true := ⟨rfl, rfl⟩

theorem witness_OperandPreconditionsAreRefused : (at' 0 rest).buses[(0 : BusId).val]? = some rest ∧
    ([] : List Word).length < (1 : Byte).toNat ∧ (([0, 0] : List Byte).length < 3 ∨ 1029 < 3) ∧
    (([] : List Byte).length < 1030 ∨ 1029 < 1030) ∧ 3 < (4 : Byte).toNat ∧ 4 < (5 : Byte).toNat ∧
    (∀ i : Fin 5, (0x00 : Byte) &&& 0x1F ≠ 1 <<< i.val) ∧ ∀ i : Fin 5, (0x23 : Byte) &&& 0x1F ≠ 1 <<< i.val :=
  ⟨rfl, by decide, by decide, by decide, by decide, by decide, by decide, by decide⟩

theorem witness_ShortWordArraysAreRefused : (at' 0 rest).buses[(0 : BusId).val]? = some rest ∧
    ([] : List Word).length < (1 : Byte).toNat ∧ ([] : List Word).length < 1 :=
  ⟨rfl, by decide, by decide⟩

theorem witness_ShortWordArraysAreRefused_payload :
    (at' 0 (withMain (attached .main))).buses[(0 : BusId).val]? = some (withMain (attached .main)) ∧
    0 < 1 ∧ 1 ≤ ([] : List Word).length + 1 ∧ ([] : List Word).length < (1 : Byte).toNat ∧
    (0x20 : Byte).extractLsb' 6 2 = playerOfBus (at' 0 rest).cfg (0 : BusId).val ∧ (0x20 : Byte).getLsbD 5 = true ∧
    (0x10 : Byte).extractLsb' 6 2 = playerOfBus (at' 0 rest).cfg (0 : BusId).val ∧
    (withMain (attached .main)).main.present = true ∧ ∃ i : Fin 5, (0x10 : Byte) &&& 0x1F = 1 <<< i.val :=
  ⟨rfl, by decide, by decide, by decide, by decide, by decide, by decide, rfl, 4, by decide⟩

theorem witness_ComputeCrcIsTheXorOfTheBytes : 0 ≤ 1029 ∧ 0 ≤ ([] : List Byte).length ∧ 1029 ≤ 1029 ∧
    1029 ≤ (List.replicate 1029 (0 : Byte)).length ∧ ([0x02, 0x01] : List Byte).Perm (([0x01, 0x02, 0x03] : List Byte).take 2) :=
  ⟨by decide, by decide, by decide, List.length_replicate.ge, by decide⟩

theorem witness_EncodeGivesTheWireBytes : ([] : List Word).length < (1 : Byte).toNat ∧
    (0 : Byte).toNat ≤ ([] : List Word).length ∧ (1 : Byte).toNat ≤ ([7] : List Word).length ∧
    0 ≤ (0 : Byte).toNat ∧ 3 < 4 ∧ ((0x09200000 : Word) :: [])[0]? = some 0x09200000 := by decide

theorem witness_ValidateComparesTheLastByte : 5 ≤ 1029 ∧ 5 ≤ frame5.length ∧ crcValid frame5 5 = true ∧ 4 < 5 ∧
    frame5[4]? ≠ some 0x20 ∧ frame5[0]? ≠ some 0x00 := by decide

theorem witness_ParseReadsTheFrame : 9 ≤ 1029 ∧ 9 ≤ frame9.length ∧
    parseFrame .cmdFirst frame9 9 = some ⟨0x09, 0x20, 0x00, 1, [0x09200001, 1], 0x29⟩ ∧ 1 ≤ (1 : Byte).toNat ∧
    frame9[4 * 1 + 3]? = some 0x01 := by decide

theorem witness_EncodedFrameValidates : (1 : Byte).toNat ≤ ([1] : List Word).length ∧ 8 < 9 ∧ frame9[8]? ≠ some 0x28 := by
  decide

theorem witness_ParseInvertsEncode : (1 : Byte).toNat ≤ ([1] : List Word).length ∧ 0 < (1 : Byte).toNat := by decide

theorem witness_RecipientAddressIsComposed : (3 : Byte).toNat ≤ 3 ∧ (4 : Byte).toNat ≤ 4 ∧ 3 < (4 : Byte).toNat ∧
    4 < (5 : Byte).toNat := by decide

theorem witness_MaskAndIndexOfAnAddress : (0x30 : Byte) &&& 0x1F = 1 <<< (4 : Fin 5).val ∧
    (0xE1 : Byte) &&& 0x1F = 1 <<< (0 : Fin 5).val ∧ ∀ i : Fin 5, (0x20 : Byte) &&& 0x1F ≠ 1 <<< i.val := by decide

theorem witness_LinesIdleMeansBothHighThroughout : (4 : Nat) ≤ 4 ∧ noisy.linesIdleDuring 4 4 = true ∧ (4 : Nat) ≤ 5 ∧
    noisy.linesIdleDuring 4 5 = false := by decide

theorem witness_WriteStartsATransmission : (at' 100 rest).buses[(0 : BusId).val]? = some rest ∧
    rest.windowEnd ≤ (at' 100 rest).now ∧ (1 : Byte).toNat ≤ ([1] : List Word).length ∧ rest.t.writeBusy = false ∧
    rest.t.readBusy = false ∧
    ∀ i, (at' 100 rest).now ≤ i → i ≤ (at' 100 rest).now + (at' 100 rest).cfg.openLineCheckUs →
      rest.lineHigh .a i = true ∧ rest.lineHigh .b i = true :=
  ⟨rfl, by decide, by decide, rfl, rfl, fun _ _ _ => ⟨rfl, rfl⟩⟩

theorem witness_WriteStartsATransmission_stops : ([] : List Word).length < (1 : Byte).toNat ∧
    (withT writing).windowEnd ≤ (at' 0 (withT writing)).now ∧
    ((withT writing).t.writeBusy = true ∨ (withT writing).t.readBusy = true) ∧ noisy.t.writeBusy = false ∧
    noisy.t.readBusy = false ∧
    ¬ ∀ i, (at' 0 noisy).now ≤ i → i ≤ (at' 0 noisy).now + (at' 0 noisy).cfg.openLineCheckUs →
      noisy.lineHigh .a i = true ∧ noisy.lineHigh .b i = true :=
  ⟨by decide, by decide, by decide, rfl, rfl, fun h => absurd (h 5 (by decide) (by decide)).1 (by decide)⟩

theorem witness_FailedWriteLeavesTheTransport : (at' 0 (withT writing)).buses[(0 : BusId).val]? = some (withT writing) ∧
    (0 : Byte).toNat ≤ ([] : List Word).length ∧
    ((withT writing).t.writeBusy = true ∨ (withT writing).t.readBusy = true) :=
  ⟨rfl, by decide, by decide⟩

/-- A bus with one published word. -/
def published : Bus := withT { restT with lv := held [0x01200000], lvLen := 1, lvNew := true }

theorem witness_GetReadDataAnswersTheSnapshot : (at' 0 published).buses[(0 : BusId).val]? = some published ∧
    ([0x01200000] : List Word).length = published.t.lvLen ∧
    ∀ i, i < published.t.lvLen → readCell published.t.lv i = ([0x01200000] : List Word)[i]? :=
  ⟨rfl, by decide, by decide⟩

theorem witness_ProcessEventsEnforcesTheDeadline : (at' 0 (withT writing)).buses[(0 : BusId).val]? = some (withT writing) ∧
    (withT writing).t.writeBusy = true ∧ (withT writing).t.deadline ≤ 382 ∧ (withT reading).t.writeBusy = false ∧
    (withT reading).t.readBusy = true ∧ (withT reading).t.deadline ≤ 6000 ∧
    (5999 < (withT reading).t.deadline ∨ ((withT reading).t.writeBusy = false ∧ (withT reading).t.readBusy = false)) ∧
    (0 < rest.t.deadline ∨ (rest.t.writeBusy = false ∧ rest.t.readBusy = false)) :=
  ⟨rfl, by decide, by decide, by decide, by decide, by decide, by decide, by decide⟩

theorem witness_TxCompleteEndsTheWritePhase : (at' 0 (withT writing)).buses[(0 : BusId).val]? = some (withT writing) ∧
    (withT writing).windowEnd ≤ (at' 0 (withT writing)).now ∧ rest.t.writeBusy = false ∧
    (withT { writing with txPhase := .idle }).t.writeBusy = true ∧
    (withT { writing with txPhase := .idle }).t.txPhase = .idle ∧
    (withT { writing with txPhase := .idle }).t.expectResponse = false ∧
    (withT { writing with txPhase := .idle, expectResponse := true }).t.expectResponse = true :=
  ⟨rfl, by decide, by decide, by decide, by decide, by decide, by decide⟩

theorem witness_RxCompletePublishesOrDiscards :
    (at' 0 (withT (ended frame5))).buses[(0 : BusId).val]? = some (withT (ended frame5)) ∧ rest.t.readBusy = false ∧
    (withT (ended frame5)).t.readBusy = true ∧ (withT (ended frame5)).t.rxPhase = .off ∧
    5 = (withT (ended frame5)).t.rbCount ∧ (withT { ended frame5 with rxBad := true }).t.rxBad = true ∧
    (withT (ended frame5)).t.rxBad = false ∧ (withT (ended frame5)).t.rxOverflow = false ∧ 5 ≤ 5 ∧ (5 - 1) % 4 = 0 ∧
    5 ≤ 1029 ∧ frame5.length = 5 ∧ (∀ i, i < 5 → readCell (withT (ended frame5)).t.rb i = frame5[i]?) ∧
    crcValid frame5 5 = true ∧ (parseFrame .cmdFirst frame5 5).isSome = true :=
  ⟨rfl, by decide, by decide, by decide, by decide, by decide, by decide, by decide, by decide, by decide, by decide,
    by decide, by decide, by decide, by decide⟩

theorem witness_RxCompletePublishesOrDiscards_discards : 4 = (withT (ended (frame5.take 4))).t.rbCount ∧ 4 < 5 ∧
    (6 - 1) % 4 ≠ 0 ∧ (withT { ended frame5 with rxOverflow := true }).t.rxOverflow = true ∧
    crcValid [0x01, 0x20, 0x00, 0x00, 0x20] 5 = false ∧ crcValid [0x01, 0x20, 0x00, 0x01, 0x20] 5 = true ∧
    parseFrame .cmdFirst [0x01, 0x20, 0x00, 0x01, 0x20] 5 = none := by decide

theorem witness_TxStartEmitsStart : (at' 0 (withT writing)).buses[(0 : BusId).val]? = some (withT writing) ∧
    (withT writing).t.txPhase = .start ∧ (at' 0 rest).cfg.startSeq.getLast? = some ⟨.low, .low, 1000⟩ ∧
    ({ at' 0 rest with cfg := { ti with startSeq := [] } } : State).cfg.startSeq = [] :=
  ⟨rfl, by decide, by decide, rfl⟩

theorem witness_TxBitEmitsTheNextBit :
    (withT { writing with txPhase := .data, txBit := 39 }).t.txPhase = .data ∧
    readCell (withT { writing with txPhase := .data, txBit := 39 }).t.wb (39 / 8) = some 0x21 ∧
    true = (0x21 : Byte).getLsbD (7 - 39 % 8) ∧
    [⟨.release, .low, 500⟩] =
      (if 39 % 2 = 0 then (if true then ti.bitWave01 else ti.bitWave00)
       else (if true then ti.bitWave11 else ti.bitWave10)) := by decide

theorem witness_TxEndTakesTxComplete :
    (withT { writing with txPhase := .stop }).windowEnd ≤ (at' 0 (withT { writing with txPhase := .stop })).now ∧
    (withT { writing with txPhase := .stop }).t.txPhase = .stop ∧
    (withT { writing with txPhase := .stop }).t.writeBusy = true ∧
    (withT { writing with txPhase := .stop }).t.expectResponse = false ∧
    (withT { writing with txPhase := .stop, expectResponse := true }).t.expectResponse = true := by decide

theorem witness_TransmissionEmitsTheFrame : (at' 0 (withT writing)).buses[(0 : BusId).val]? = some (withT writing) ∧
    (withT writing).t.txPhase = .start ∧ (withT writing).t.txBit = 0 ∧ frame5 ≠ [] ∧
    (withT writing).t.wbLen = frame5.length ∧ ∀ a, a < frame5.length → readCell (withT writing).t.wb a = frame5[a]? :=
  ⟨rfl, by decide, by decide, by decide, by decide, by decide⟩

theorem witness_RxWaitStartWaitsForStart : (at' 0 (withT reading)).buses[(0 : BusId).val]? = some (withT reading) ∧
    (withT reading).t.rxPhase = .waitStart ∧ Symbol.bit ⟨true, .a⟩ ≠ .start := ⟨rfl, by decide, by decide⟩

/-- A reception inside a byte. -/
def inByte (k : Fin 8) (count : Nat) : Bus := withT { received [] with rxBitCnt := k, rbCount := count }

theorem witness_RxBitAssemblesBytes : (inByte 6 0).t.rxPhase = .data ∧ (inByte 6 0).t.rxBitCnt.val < 7 ∧
    (inByte 7 1028).t.rxPhase = .data ∧ (inByte 7 1028).t.rxBitCnt.val = 7 ∧ (inByte 7 1028).t.rbCount < 1029 ∧
    1029 ≤ (inByte 7 1029).t.rbCount ∧
    Line.a = (if (inByte 6 0).t.rxBitCnt.val % 2 = 0 then ti.firstClockLine else otherLine ti.firstClockLine) ∧
    Line.b = (if (inByte 7 0).t.rxBitCnt.val % 2 = 0 then ti.firstClockLine else otherLine ti.firstClockLine) := by decide

theorem witness_EightBitsStoreTheByte : (inByte 0 1028).t.rxPhase = .data ∧ (inByte 0 1028).t.rxBitCnt = 0 ∧
    (inByte 0 1028).t.rbCount < 1029 := by decide

theorem witness_RxEndTakesRxComplete :
    (at' 0 (withT (received frame5))).buses[(0 : BusId).val]? = some (withT (received frame5)) ∧
    (withT (received frame5)).t.rxPhase = .data ∧ (withT (received frame5)).t.readBusy = true ∧
    (withT (received frame5)).t.rbCount ≤ 1029 ∧
    (∀ a, a < (withT (received frame5)).t.rbCount → (readCell (withT (received frame5)).t.rb a).isSome = true) ∧
    (inByte 4 0).t.rxBitCnt ≠ 0 :=
  ⟨rfl, by decide, by decide, by decide, by decide, by decide⟩

theorem witness_RxBadKillsTheReception : (withT (received [])).t.rxPhase = .data ∧
    (withT { reading with rxPhase := .dead }).t.rxPhase = .dead ∧
    Line.b ≠ (if (withT (received [])).t.rxBitCnt.val % 2 = 0 then ti.firstClockLine
      else otherLine ti.firstClockLine) := by decide

theorem witness_StepsThatAreNotEnabled : rest.t.txPhase ≠ .start ∧ rest.t.txPhase ≠ .data ∧ rest.t.txPhase ≠ .stop ∧
    (rest.t.rxPhase = .off ∨ rest.t.rxPhase = .dead) ∧ (withT reading).t.rxPhase = .waitStart ∧
    (withT (received [])).t.rxPhase = .data ∧ (withT writing).t.writeBusy = true ∧ (withT writing).t.txPhase ≠ .idle ∧
    (withT (received frame5)).t.readBusy = true ∧
    ((withT (received frame5)).t.rxPhase ≠ .off ∨ 5 ≠ (withT (received frame5)).t.rbCount) ∧
    ((withT (ended frame5)).t.rxPhase ≠ .off ∨ 4 ≠ (withT (ended frame5)).t.rbCount) := by decide

theorem witness_StepsInsideAWindowReadItsEnd :
    (at' 105 { rest with windowEnd := 110 }).now ≤ ({ rest with windowEnd := 110 } : Bus).windowEnd ∧
    refusal (exec (.write 0 0x09 0x20 [1] 1 true 1000) (at' 110 { rest with windowEnd := 110 })) = none ∧
    retOf (exec (.write 0 0x09 0x20 [1] 1 true 1000) (at' 110 { rest with windowEnd := 110 })) = some (.bool true) := by
  decide +kernel

theorem witness_StoppedEngineRaisesNothing : (withT writing).t.deadline ≤ 382 ∧ (withT writing).t.writeBusy = true ∧
    (withT reading).t.deadline ≤ 6000 ∧ (withT reading).t.writeBusy = false ∧ (withT reading).t.readBusy = true := by
  decide

theorem witness_HandleDataByCommand : (at' 0 rest).buses[(0 : BusId).val]? = some rest ∧ rest.node .main = absent .main ∧
    (1 : Byte).toNat ≤ ([1] : List Word).length ∧ (0x05 : Byte) = (at' 0 rest).cfg.cmdDeviceInfoResponse ∧
    evalFrameTest 1 [1] (at' 0 rest).cfg.isController = true ∧ (absent .main).poller.attached = false ∧
    evalFrameTest 1 [2] (at' 0 rest).cfg.isController = false ∧ (0x08 : Byte) = (at' 0 rest).cfg.cmdDataTransfer ∧
    (0x08 : Byte) ≠ (at' 0 rest).cfg.cmdDeviceInfoResponse ∧ (attached .main).poller.attached = true ∧
    (0x07 : Byte) ≠ (at' 0 rest).cfg.cmdDeviceInfoResponse ∧ (0x07 : Byte) ≠ (at' 0 rest).cfg.cmdDataTransfer :=
  ⟨rfl, rfl, by decide, by decide, by decide, by decide, by decide, by decide, by decide, by decide, by decide, by decide⟩

theorem witness_SetConnectedSetsPresence :
    (at' 0 (withMain (attached .main))).buses[(0 : BusId).val]? = some (withMain (attached .main)) := rfl

theorem witness_DispatchBySender : 0 < 1 ∧ 1 ≤ [headerWord .cmdFirst 0x05 0x00 0x20 0].length ∧
    (0x60 : Byte).extractLsb' 6 2 ≠ playerOfBus (at' 0 rest).cfg (0 : BusId).val ∧
    (0x3F : Byte).extractLsb' 6 2 = playerOfBus (at' 0 rest).cfg (0 : BusId).val ∧ (0 : Byte).toNat ≤ ([] : List Word).length ∧
    (0x3F : Byte).getLsbD 5 = true ∧ (0x10 : Byte).extractLsb' 6 2 = playerOfBus (at' 0 rest).cfg (0 : BusId).val ∧
    (0x10 : Byte).getLsbD 5 = false ∧ (withMain (attached .main)).main.present = true ∧
    (0x10 : Byte) &&& 0x1F = 1 <<< (4 : Fin 5).val ∧ rest.main.present = false ∧
    (0x1F : Byte).getLsbD 5 = false ∧ ∀ i : Fin 5, (0x1F : Byte) &&& 0x1F ≠ 1 <<< i.val := by decide

/-- A bus whose snapshot is a device-information response of the main node. -/
def announced : Bus := withT { restT with lv := held [0x05002000], lvLen := 1, lvNew := true }

theorem witness_TaskDispatchesANewFrame :
    exec (.getReadData 0) (at' 0 announced) =
      .next { at' 0 { announced with t := { announced.t with lvNew := false } } with
              ret := .readData [0x05002000] 1 true } ∧
    retOf (exec (.mainDispatch 0 [0x05002000] 1) (at' 0 { announced with t := { announced.t with lvNew := false } })) =
      some (.bool true) := ⟨rfl, by decide⟩

theorem witness_TaskProbesTicksAndFansOut : rest.t.lvNew = false ∧ Written rest.t.lv rest.t.lvLen ∧
    (rest.node .main).present = false ∧ (rest.node .main).nextProbe ≤ 0 ∧
    ({ absent .main with nextProbe := 7 } : Node).nextProbe = 7 ∧
    ((withMain (attached .main)).node .main).present = true ∧
    ((withMain (attached .main)).node .main).poller.attached = true ∧
    ((withMain { absent .main with present := true }).node .main).poller.attached = false ∧ NodeId.sub 0 ≠ .main :=
  ⟨rfl, fun a h => absurd h (Nat.not_lt_zero a), rfl, by decide, rfl, rfl, rfl, rfl, by decide⟩

theorem witness_AttachAndDetachBeginAndEndThePoller : (at' 0 rest).buses[(0 : BusId).val]? = some rest ∧
    (at' 0 (withMain (attached .main))).buses[(0 : BusId).val]? = some (withMain (attached .main)) := ⟨rfl, rfl⟩

theorem witness_IsPresentAnswersPresence : (at' 0 rest).buses[(0 : BusId).val]? = some rest := rfl

theorem witness_MainPeripheralDisconnectedMakesSubNodesAbsent :
    (at' 0 (withMain (attached .main))).buses[(0 : BusId).val]? = some (withMain (attached .main)) := rfl

theorem witness_TickPollsCountsMissesAndDisconnects :
    (at' 0 (withMain (waitingMain 2))).buses[(0 : BusId).val]? = some (withMain (waitingMain 2)) ∧
    (withMain (waitingMain 2)).node .main = waitingMain 2 ∧ (waitingMain 2).poller.attached = true ∧
    (waitingMain 2).poller.newData = false ∧ 499 < (waitingMain 2).poller.nextCheck ∧
    (waitingMain 2).poller.nextCheck ≤ 500 ∧ (waitingMain 2).poller.waiting = true ∧
    (waitingMain 2).poller.noData + 1 = 3 ∧ (waitingMain 1).poller.noData + 1 ≠ 3 ∧
    (attached .main).poller.waiting = false ∧ (at' 0 rest).cfg.repollOnMiss = false ∧
    ({ ti with repollOnMiss := true } : Params).repollOnMiss = true :=
  ⟨rfl, rfl, rfl, rfl, by decide, by decide, rfl, rfl, by decide, rfl, rfl, rfl⟩

theorem witness_TickTakesNewDataFirst :
    (withMain (latchedMain 0x08 2)).node .main = latchedMain 0x08 2 ∧ (absent .main).poller.attached = false ∧
    (latchedMain 0x08 2).poller.attached = true ∧ (latchedMain 0x08 2).poller.newData = true ∧
    (latchedMain 0x08 2).poller.rxCmd = (at' 0 rest).cfg.cmdDataTransfer ∧
    (latchedMain 0x08 2).poller.rxLen = (at' 0 rest).cfg.condRespLen ∧
    ((latchedMain 0x08 3).poller.rxCmd ≠ (at' 0 rest).cfg.cmdDataTransfer ∨
      (latchedMain 0x08 3).poller.rxLen ≠ (at' 0 rest).cfg.condRespLen) :=
  ⟨rfl, rfl, rfl, rfl, rfl, rfl, by decide⟩

theorem witness_DisconnectOnTheThirdConsecutiveMiss :
    (at' 0 (withMain (waitingMain 2))).buses[(0 : BusId).val]? = some (withMain (waitingMain 2)) ∧
    ((withMain (waitingMain 2)).node .main).poller = (waitingMain 2).poller ∧ (waitingMain 2).poller.attached = true :=
  ⟨rfl, rfl, rfl⟩

theorem witness_CondDecodeCentersAndInverts : (at' 0 rest).cfg.condLayout = tiLayout ∧
    ((0xFFFE8080 : Word) ++ (0x80808080 : Word) : BitVec 64) = 0xFFFE808080808080 ∧ tiLayout.buttonBits[7]? = some 55 :=
  ⟨rfl, by decide, rfl⟩

/-- The nodes of a bus at rest. -/
theorem rest_node (id : NodeId) : rest.node id = absent id := by
  cases id with
  | main => rfl
  | sub i => fin_cases i <;> rfl

/-- The bus at rest has the three invariants. -/
theorem at_rest_inv (now : Nat) (input : List Pending) : StateInv { at' now rest with input := input } ∧
    EnginesInv { at' now rest with input := input } ∧ PresencesInv { at' now rest with input := input } := by
  have hbus : ∀ (b : Nat) (bus : Bus), ({ at' now rest with input := input } : State).buses[b]? = some bus →
      b = 0 ∧ bus = rest := by
    intro b bus h
    cases b with
    | zero => exact ⟨rfl, (Option.some.inj h).symm⟩
    | succ n => cases h
  refine ⟨⟨rfl, fun b bus h => ?_⟩, fun b bus h => ?_, fun b bus h => ?_⟩ <;> obtain ⟨rfl, rfl⟩ := hbus b bus h
  · refine ⟨⟨rfl, rfl, rfl, by decide, by decide, by decide, ?_, ?_, ?_, ?_, by decide, by decide⟩,
      show (0 : Byte) = hostAddress (playerOfBus ti 0) by decide, ?_, ?_⟩
    · exact fun a h => absurd h (Nat.not_lt_zero a)
    · exact fun a h => absurd h (Nat.not_lt_zero a)
    · exact fun a h => absurd h (Nat.not_lt_zero a)
    · intro bytes h; cases h; rfl
    · intro id; rw [rest_node]; exact ⟨by show 0 < 3; decide, rfl⟩
    · intro id; rw [rest_node]; rfl
  · exact ⟨by decide, by decide, by decide, fun _ => ⟨rfl, rfl⟩, by decide, by decide, by decide, by decide⟩
  · exact ⟨fun id h => (by rw [rest_node] at h; cases h), fun i h => (by rw [rest_node] at h; cases h)⟩

theorem witness_EveryStepKeepsTheStateInvariant :
    StateInv { at' 100 rest with input := [⟨120, [0x14, 0x00, 0x00]⟩] } ∧
    step { at' 100 rest with input := [⟨120, [0x14, 0x00, 0x00]⟩] } = .next { at' 120 rest with ret := .bool false } :=
  ⟨(at_rest_inv _ _).1, rfl⟩

theorem witness_EveryStepKeepsTheEnginesInvariant : EnginesInv (at' 100 rest) ∧
    retOf (exec (.write 0 0x09 0x20 [1] 1 true 1000) (at' 100 rest)) = some (.bool true) :=
  ⟨(at_rest_inv 100 []).2.1, by decide +kernel⟩

theorem witness_EveryStepKeepsThePresenceInvariant :
    breaksPresence (at' 1000 rest) (.nodeTask 0 .main 1000) = false ∧
    breaksPresence (at' 1000 rest) (.nodeHandleData 0 .main 1 0x05 [1]) = false ∧
    breaksPresence (at' 1000 rest) (.nodeHandleData 0 (.sub 1) 1 0x08 [1]) = false ∧
    breaksPresence (at' 1000 (withMain (attached .main))) (.nodeHandleData 0 (.sub 1) 1 0x05 [1]) = false ∧
    breaksPresence (at' 1000 (withMain (attached .main))) (.nodeSetConnected 0 (.sub 1) true) = false ∧
    breaksPresence (at' 1000 (withMain (attached .main))) (.pollerAttach 0 .main) = false ∧
    PresencesInv (at' 1000 rest) ∧ retOf (exec (.nodeTask 0 .main 1000) (at' 1000 rest)) = some .none ∧
    retOf (exec (.nodeHandleData 0 .main 1 0x05 [1]) (at' 1000 rest)) = some (.bool true) :=
  ⟨rfl, rfl, by decide, by decide, by decide, by decide, (at_rest_inv 1000 []).2.2, by decide +kernel, by decide +kernel⟩

theorem witness_NothingUnwrittenIsRead : StateInv (at' 0 rest) ∧ EnginesInv (at' 0 rest) :=
  ⟨(at_rest_inv 0 []).1, (at_rest_inv 0 []).2.1⟩

theorem witness_AbsentBusIsRefused : busOf (.txBit 1) = some 1 ∧ (at' 0 rest).buses.length ≤ (1 : BusId).val := by decide

theorem witness_ParametersAndIdentitiesPersist :
    step { at' 100 rest with input := [⟨120, [0x14, 0x00, 0x00]⟩] } = .next { at' 120 rest with ret := .bool false } ∧
    (at' 100 rest).buses[0]? = some rest ∧ (at' 120 rest).buses[0]? = some rest := ⟨rfl, rfl, rfl⟩

theorem witness_OtherBusesAreUntouched :
    exec (.nodeIsPresent 0 .main) (at' 0 rest) = .next { at' 0 rest with ret := .bool false } ∧
    ∀ c : BusId, busOf (.nodeIsPresent 0 .main) = some c → 1 ≠ c.val :=
  ⟨rfl, fun c h => by cases h; decide⟩

theorem witness_EnginesTouchNoNode : engineStep (.rxBad 0) = true ∧
    exec (.rxBad 0) (at' 0 (withT (received []))) = .next (at' 0 (withT { received [] with rxPhase := .dead })) ∧
    (at' 0 (withT (received []))).buses[0]? = some (withT (received [])) := ⟨rfl, rfl, rfl⟩

theorem witness_OnlyRxCompleteWritesTheSnapshot :
    exec (.nodeIsPresent 0 .main) (at' 0 published) = .next { at' 0 published with ret := .bool false } ∧
    (∀ b, Instr.nodeIsPresent 0 .main ≠ .rxEnd b) ∧ (∀ b n, Instr.nodeIsPresent 0 .main ≠ .rxComplete b n) ∧
    (at' 0 published).buses[0]? = some published :=
  ⟨rfl, fun _ => by simp, fun _ _ => by simp, rfl⟩

theorem witness_WriteBufferIsStableWhileBusy :
    exec (.nodeIsPresent 0 .main) (at' 0 (withT writing)) = .next { at' 0 (withT writing) with ret := .bool false } ∧
    (at' 0 (withT writing)).buses[0]? = some (withT writing) ∧
    ((withT writing).t.writeBusy = true ∨ (withT writing).t.readBusy = true) := ⟨rfl, rfl, by decide⟩

end Sys2Proof.Tests
end

section
/-! Settles O5: the state after reset holds the table of spec/10_state.md R44. -/

namespace Sys2Proof.Machine

/-! ## The buses after reset (R20) -/

/-- The buses after reset are numbered from 0 to `NUM_BUSES - 1`. -/
theorem State.resetWith_buses (p : Params) :
    (State.resetWith p).buses = (List.range (p.extraBuses.val + 1)).map (resetBus p) := by
  show resetBus p 0 :: ([1, 2, 3].take p.extraBuses.val).map (resetBus p) = _
  generalize p.extraBuses = n
  fin_cases n <;> rfl

theorem State.resetWith_buses_length (p : Params) : (State.resetWith p).buses.length = p.extraBuses.val + 1 := by
  rw [State.resetWith_buses, List.length_map, List.length_range]

/-- Every bus there is after reset is the reset bus of its number. -/
theorem State.eq_resetBus_of_getElem? {p : Params} {b : Nat} {bus : Bus}
    (h : (State.resetWith p).buses[b]? = some bus) : bus = resetBus p b := by
  rw [State.resetWith_buses, List.getElem?_eq_some_iff] at h
  obtain ⟨hb, rfl⟩ := h
  rw [List.getElem_map, List.getElem_range]

/-- Every node of the reset bus is the reset node of its name. -/
@[simp] theorem resetBus_node (p : Params) (b : Nat) (id : NodeId) : (resetBus p b).node id = resetNode p b id := by
  cases id with
  | main => rfl
  | sub i => fin_cases i <;> rfl

/-! ## Address bytes as the spec computes them (R96, R140): the player shifted by 6, or-ed with the node's bit -/

theorem hostAddress_eq_shift (player : BitVec 2) : hostAddress player = player.setWidth 8 <<< 6 := by
  revert player; decide

theorem mainAddress_eq_or (player : BitVec 2) : mainAddress player = (player.setWidth 8 <<< 6) ||| 0x20 := by
  revert player; decide

theorem subAddress_eq_or (player : BitVec 2) (i : Fin 5) :
    subAddress player i = (player.setWidth 8 <<< 6) ||| (1 <<< i.val) := by
  revert player i; decide

/-! ## The level of a line (R156) -/

/-- A line is high exactly when the block releases it and no pulse of the environment covers the instant. -/
theorem Bus.lineHigh_iff (bus : Bus) (l : Line) (i : Nat) : bus.lineHigh l i = true ↔
    bus.t.drive l = .release ∧ ∀ p ∈ bus.env, p.line = l → ¬ (p.start ≤ i ∧ i ≤ p.stop) := by
  simp only [Bus.lineHigh, Bool.and_eq_true, decide_eq_true_eq, List.all_eq_true, Bool.or_eq_true]
  refine and_congr_right fun _ => forall₂_congr fun p _ => ?_
  by_cases hl : p.line = l
  · simp only [hl, ne_eq, not_true, false_or, true_imp_iff]; omega
  · simp [hl]

/-- The block drives no line after reset. -/
@[simp] theorem resetTransport_drive (p : Params) (b : Nat) (l : Line) : (resetTransport p b).drive l = .release := by
  cases l <;> rfl

end Sys2Proof.Machine

namespace Sys2Proof.Proofs
open Sys2Proof.Machine

/-- Settles O5: every bus is the reset bus of its number, whose fields are the values of the table; the addresses, the
line levels and the nodes are by the lemmas above. -/
theorem resetValuesOfTheSpec : Obligations.ResetValuesOfTheSpec := by
  intro p
  refine ⟨State.resetWith_buses_length p, fun b bus h => ?_⟩
  obtain rfl := State.eq_resetBus_of_getElem? h
  have lines_high : ∀ (l : Line) (i : Nat),
      (∀ q ∈ (resetBus p b).env, q.line = l → ¬ (q.start ≤ i ∧ i ≤ q.stop)) → (resetBus p b).lineHigh l i = true :=
    fun l i quiet => (Bus.lineHigh_iff ..).mpr ⟨resetTransport_drive p b l, quiet⟩
  have sub_addr : ∀ i : Fin 5, ((resetBus p b).node (.sub i)).addr =
      ((playerOfBus p b).setWidth 8 <<< 6) ||| (1 <<< i.val) := by
    intro i
    rw [resetBus_node]
    exact subAddress_eq_or _ i
  refine ⟨hostAddress_eq_shift _, rfl, rfl, rfl, rfl, rfl, rfl, rfl, rfl, rfl, rfl, rfl, rfl, rfl, rfl, rfl, rfl, rfl, rfl,
    lines_high, mainAddress_eq_or _, sub_addr, fun id => ?_⟩
  rw [resetBus_node]
  exact ⟨rfl, rfl, rfl, rfl, rfl, rfl, rfl, rfl⟩

end Sys2Proof.Proofs
end

section
/-! Settles O3: a selector that spec/30_encoding.md R101 to R103 do not list is refused by name (R107). The decoder hands
the operands to one of five family decoders, and each of them reserves every selector outside the list. -/

namespace Sys2Proof
open Laws (listedSelectors)

/-! ## A family decoder reserves an unlisted selector: every arm but its last has a listed one -/

variable {sel : Byte} (r : List Byte)

theorem decodeCodec_of_not_listed (h : sel ∉ listedSelectors) : decodeCodec sel r = .error (.reservedSelector sel) := by
  unfold decodeCodec
  split
  case h_8 => rfl
  all_goals exact absurd (by decide) h

theorem decodeTransport_of_not_listed (h : sel ∉ listedSelectors) :
    decodeTransport sel r = .error (.reservedSelector sel) := by
  unfold decodeTransport
  split
  case h_6 => rfl
  all_goals exact absurd (by decide) h

theorem decodeNode_of_not_listed (h : sel ∉ listedSelectors) : decodeNode sel r = .error (.reservedSelector sel) := by
  unfold decodeNode
  split
  case h_7 => rfl
  all_goals exact absurd (by decide) h

theorem decodePoller_of_not_listed (h : sel ∉ listedSelectors) : decodePoller sel r = .error (.reservedSelector sel) := by
  unfold decodePoller
  split
  case h_5 => rfl
  all_goals exact absurd (by decide) h

theorem decodeSeq_of_not_listed (h : sel ∉ listedSelectors) : decodeSeq sel r = .error (.reservedSelector sel) := by
  unfold decodeSeq
  split
  case h_10 => rfl
  all_goals exact absurd (by decide) h

/-- Whichever family decoder the range of the selector chooses, it reserves an unlisted one. -/
theorem decode_of_not_listed (h : sel ∉ listedSelectors) : decode (sel :: r) = .error (.reservedSelector sel) := by
  simp only [decode, decodeCodec_of_not_listed r h, decodeTransport_of_not_listed r h, decodeNode_of_not_listed r h,
    decodePoller_of_not_listed r h, decodeSeq_of_not_listed r h, ite_self]

end Sys2Proof

namespace Sys2Proof.Machine

/-- A front entry whose bytes are no step makes the step refused, under the name of the decoder's error. -/
theorem step_of_decode_error {s : State} {e : Pending} {rest : List Pending} {err : DecodeError}
    (hinput : s.input = e :: rest) (hdecode : decode e.code = .error err) : step s = .refused (refusalOf err) := by
  simp only [step, hinput, instrOf, hdecode]

end Sys2Proof.Machine

namespace Sys2Proof.Proofs
open Sys2Proof.Machine

/-- Settles O3: the statement writes out `Laws.listedSelectors`, so the decoder reserves the byte, and the step is
refused under its name. -/
theorem reservedSelectorIsRefused : Obligations.ReservedSelectorIsRefused := by
  intro s time sel operands rest hinput (hsel : sel ∉ Laws.listedSelectors)
  have hdecode : decode (sel :: operands) = .error (.reservedSelector sel) := decode_of_not_listed operands hsel
  exact step_of_decode_error hinput hdecode

end Sys2Proof.Proofs
end

section
/-! The frame codec (spec/40_frame_codec.md): settles O8, O9, O11 and O12. First what each of the four steps answers, then
the facts about the CRC, the encoded frame and the parsed frame that the statements are made of. -/

namespace Sys2Proof.Machine

/-! ## What the four steps answer when their preconditions hold (R336) -/

section
variable {bytes : List Byte} {n : Nat} (s : State)

theorem exec_computeCrc_of_le (hbuf : n ≤ 1029) (hlen : n ≤ bytes.length) :
    exec (.computeCrc bytes n) s = .next { s with ret := .crc (crcOf (bytes.take n)) } :=
  onBytes_of_le bytes n s _ hbuf hlen

theorem exec_validate_of_le (hbuf : n ≤ 1029) (hlen : n ≤ bytes.length) :
    exec (.validate bytes n) s = .next { s with ret := .bool (crcValid bytes n) } :=
  onBytes_of_le bytes n s _ hbuf hlen

theorem exec_parse_of_le (hbuf : n ≤ 1029) (hlen : n ≤ bytes.length) :
    exec (.parse bytes n) s = .next { s with ret := .parsed (parseFrame s.cfg.hdrLayout bytes n) } :=
  onBytes_of_le bytes n s _ hbuf hlen

end

section
variable {payload : List Word} {len : Byte} (command sender recipient : Byte) (s : State)

theorem exec_encode_of_lt (h : payload.length < len.toNat) :
    exec (.encode command sender recipient payload len) s = .refused .arrayTooShort :=
  if_pos h

theorem exec_encode_of_le (h : len.toNat ≤ payload.length) :
    exec (.encode command sender recipient payload len) s =
      .next { s with
        ret := .wire (frameBytes s.cfg.hdrLayout command sender recipient payload len) (frameSize len.toNat) } :=
  if_neg (Nat.not_lt.mpr h)

end

/-! ## The CRC (R121, R123) -/

/-- Exclusive or is commutative, so the order in which the bytes are folded does not matter (R121). -/
theorem crcOf_perm {xs ys : List Byte} (h : xs.Perm ys) : crcOf xs = crcOf ys :=
  h.foldl_eq' (fun x _ y _ c => by simp only [crcStep]; ac_rfl) crcInit

/-- One changed byte makes a valid string invalid: the CRC of all bytes changes by the difference of the two (R126). -/
theorem crcValid_set_of_ne {bytes : List Byte} {n i : Nat} {x : Byte} (hn : n ≤ bytes.length)
    (hvalid : crcValid bytes n = true) (hi : i < n) (hx : bytes[i]? ≠ some x) : crcValid (bytes.set i x) n = false := by
  have hib : i < bytes.length := by omega
  obtain ⟨-, hcrc⟩ := (crcValid_iff_zero bytes n hn).mp hvalid
  rw [Bool.eq_false_iff]
  intro hset
  obtain ⟨-, hcrc'⟩ := (crcValid_iff_zero _ n (by rwa [List.length_set])).mp hset
  rw [List.take_set, crcOf_set _ i x (by rw [List.length_take]; omega), hcrc, xor_eq_zero_iff, List.getElem_take] at hcrc'
  exact hx (List.getElem?_eq_some_iff.mpr ⟨hib, BitVec.zero_xor.symm.trans hcrc'⟩)

/-! ## The encoded frame (R91, R124, R125) -/

/-- Every frame fits the buffers: the largest, of 255 payload words, has 1025 bytes. -/
theorem frameSize_le_bufBytes (len : Byte) : frameSize len.toNat ≤ 1029 := by
  have := len.isLt
  unfold frameSize; omega

section
variable (layout : HdrLayout) (command sender recipient : Byte) {payload : List Word} {len : Byte}

theorem length_frameBody (h : len.toNat ≤ payload.length) :
    (frameBody layout command sender recipient payload len).length = 4 * (1 + len.toNat) := by
  rw [frameBody, length_flatMap_wireBytes, List.length_cons, List.length_take_of_le h, Nat.add_comm]

/-- Byte `4k + j` of a frame is byte `j`, most significant first, of word `k` of the header word and payload. -/
theorem getElem?_frameBytes (h : len.toNat ≤ payload.length) {k j : Nat} {w : Word} (hk : k ≤ len.toNat) (hj : j < 4)
    (hw : (headerWord layout command recipient sender len :: payload)[k]? = some w) :
    (frameBytes layout command sender recipient payload len)[4 * k + j]? = some (w.extractLsb' (24 - 8 * j) 8) := by
  have hbody : 4 * k + j < (frameBody layout command sender recipient payload len).length := by
    rw [length_frameBody layout command sender recipient h]; omega
  have htake : (headerWord layout command recipient sender len :: payload.take len.toNat)[k]? = some w := by
    rw [← List.take_succ_cons, List.getElem?_take_of_lt (Nat.lt_succ_of_le hk), hw]
  rw [frameBytes, List.getElem?_append_left hbody]
  exact getElem?_flatMap_wireBytes _ k j w hj htake

/-- The last byte of a frame is the CRC of all the others. -/
theorem getElem?_frameBytes_last (h : len.toNat ≤ payload.length) :
    (frameBytes layout command sender recipient payload len)[4 * (1 + len.toNat)]? =
      some (crcOf ((frameBytes layout command sender recipient payload len).take (4 * (1 + len.toNat)))) := by
  rw [← length_frameBody layout command sender recipient h, frameBytes, List.take_left, List.getElem?_concat_length]

/-- A frame validates, because its last byte is the CRC of the others (R127). -/
theorem crcValid_frameBytes (h : len.toNat ≤ payload.length) :
    crcValid (frameBytes layout command sender recipient payload len) (frameSize len.toNat) = true :=
  (crcValid_iff_last _ _ (length_frameBytes layout command sender recipient payload len h).ge).mpr
    ⟨_, rfl, getElem?_frameBytes_last layout command sender recipient h⟩

end

/-! ## The parsed frame (R65, R92, R128) -/

theorem frameSizeOk_iff (n : Nat) : frameSizeOk n = true ↔ 5 ≤ n ∧ (n - 1) % 4 = 0 := by
  rw [frameSizeOk, Bool.and_eq_true, decide_eq_true_eq, decide_eq_true_eq]

/-- The bytes of a frame that hold command, recipient, sender and length (R92). -/
def headerFields (layout : HdrLayout) (bytes : List Byte) : List (Option Byte) :=
  match layout with
  | .cmdFirst => [bytes[0]?, bytes[1]?, bytes[2]?, bytes[3]?]
  | .lenFirst => [bytes[3]?, bytes[2]?, bytes[1]?, bytes[0]?]

/-- The byte of a frame that holds its length (R92). -/
def lengthField (layout : HdrLayout) (bytes : List Byte) : Option Byte :=
  match layout with
  | .cmdFirst => bytes[3]?
  | .lenFirst => bytes[0]?

theorem lengthField_of_headerFields {layout : HdrLayout} {bytes : List Byte} {c r s l : Option Byte}
    (h : headerFields layout bytes = [c, r, s, l]) : lengthField layout bytes = l := by
  cases layout <;> simp_all [headerFields, lengthField]

section
variable {bytes : List Byte} {n : Nat}

/-- A word PARSE reads, from bytes of the string it is given. -/
theorem getElem?_wordsOfWire_take {k : Nat} {b0 b1 b2 b3 : Byte} (hn : n ≤ bytes.length) (hk : 4 * k + 5 ≤ n)
    (h0 : bytes[4 * k]? = some b0) (h1 : bytes[4 * k + 1]? = some b1) (h2 : bytes[4 * k + 2]? = some b2)
    (h3 : bytes[4 * k + 3]? = some b3) : (wordsOfWire (bytes.take (n - 1)))[k]? = some (b0 ++ b1 ++ b2 ++ b3) := by
  apply getElem?_wordsOfWire
  · rw [List.length_take]; omega
  all_goals rw [List.getElem?_take_of_lt (by omega)]; assumption

/-- The header word of at least five bytes is made of the four header fields, each in its place. -/
theorem exists_headerWord (layout : HdrLayout) (hn : n ≤ bytes.length) (h5 : 5 ≤ n) :
    ∃ c r s l, headerFields layout bytes = [some c, some r, some s, some l] ∧
      (wordsOfWire (bytes.take (n - 1))).headD 0 = headerWord layout c r s l := by
  have hget : ∀ i < 4, ∃ b, bytes[i]? = some b := fun i hi => ⟨_, List.getElem?_eq_getElem (by omega)⟩
  obtain ⟨b0, h0⟩ := hget 0 (by decide)
  obtain ⟨b1, h1⟩ := hget 1 (by decide)
  obtain ⟨b2, h2⟩ := hget 2 (by decide)
  obtain ⟨b3, h3⟩ := hget 3 (by decide)
  have hword : (wordsOfWire (bytes.take (n - 1))).headD 0 = b0 ++ b1 ++ b2 ++ b3 := by
    rw [List.headD_eq_head?_getD, List.head?_eq_getElem?, getElem?_wordsOfWire_take hn (by omega) h0 h1 h2 h3,
      Option.getD_some]
  cases layout with
  | cmdFirst => exact ⟨b0, b1, b2, b3, by simp only [headerFields, h0, h1, h2, h3], hword⟩
  | lenFirst => exact ⟨b3, b2, b1, b0, by simp only [headerFields, h0, h1, h2, h3], hword⟩

/-- PARSE on a string of good size whose header word is made of the fields `c`, `r`, `s` and `l`. -/
theorem parseFrame_of_headerWord {layout : HdrLayout} {c r s l : Byte} (hsize : frameSizeOk n = true)
    (hword : (wordsOfWire (bytes.take (n - 1))).headD 0 = headerWord layout c r s l) :
    parseFrame layout bytes n =
      if l.toNat = (n - 5) / 4 then some ⟨c, r, s, l, wordsOfWire (bytes.take (n - 1)), bytes.getD (n - 1) 0⟩
      else none := by
  simp only [parseFrame, hsize, hword, if_true, headerCommand_headerWord, headerRecipient_headerWord,
    headerSender_headerWord, headerLength_headerWord]

/-- PARSE answers a frame exactly when the size is good and the length byte tells the payload words there are, and then
the frame's fields are the header's, its words those of all bytes but the last, and its CRC byte the last (R128). -/
theorem parseFrame_eq_some_iff {layout : HdrLayout} {f : ParsedFrame} (hn : n ≤ bytes.length) :
    parseFrame layout bytes n = some f ↔ (5 ≤ n ∧ (n - 1) % 4 = 0) ∧ f.length.toNat = (n - 5) / 4 ∧
      headerFields layout bytes = [some f.command, some f.recipient, some f.sender, some f.length] ∧
      f.words = wordsOfWire (bytes.take (n - 1)) ∧ bytes[n - 1]? = some f.crcByte := by
  rw [← frameSizeOk_iff]
  by_cases hsize : frameSizeOk n = true
  · have h5 := ((frameSizeOk_iff n).mp hsize).1
    obtain ⟨c, r, s, l, hfields, hword⟩ := exists_headerWord layout hn h5
    have hlast : n - 1 < bytes.length := by omega
    rw [parseFrame_of_headerWord hsize hword, hfields, List.getD_eq_getElem?_getD, List.getElem?_eq_getElem hlast,
      Option.getD_some]
    simp only [Option.ite_none_right_eq_some, Option.some.injEq, List.cons.injEq, and_true]
    constructor
    · rintro ⟨hlen, rfl⟩
      exact ⟨hsize, hlen, ⟨rfl, rfl, rfl, rfl⟩, rfl, rfl⟩
    · obtain ⟨c', r', s', l', words, crc⟩ := f
      rintro ⟨-, hlen, ⟨rfl, rfl, rfl, rfl⟩, rfl, rfl⟩
      exact ⟨hlen, rfl⟩
  · simp [parseFrame, hsize]

/-- PARSE is `ok` exactly on a string of good size whose length byte tells the payload words there are. -/
theorem isSome_parseFrame_iff {layout : HdrLayout} (hn : n ≤ bytes.length) :
    (parseFrame layout bytes n).isSome = true ↔
      5 ≤ n ∧ (n - 1) % 4 = 0 ∧ ∃ l, lengthField layout bytes = some l ∧ l.toNat = (n - 5) / 4 := by
  rw [Option.isSome_iff_exists]
  constructor
  · rintro ⟨f, hf⟩
    obtain ⟨⟨h5, hmod⟩, hlen, hfields, -⟩ := (parseFrame_eq_some_iff hn).mp hf
    exact ⟨h5, hmod, f.length, lengthField_of_headerFields hfields, hlen⟩
  · rintro ⟨h5, hmod, l, hl, hlen⟩
    obtain ⟨c, r, s, l', hfields, hword⟩ := exists_headerWord layout hn h5
    obtain rfl : l' = l := Option.some.inj ((lengthField_of_headerFields hfields).symm.trans hl)
    exact ⟨_, (parseFrame_of_headerWord ((frameSizeOk_iff n).mpr ⟨h5, hmod⟩) hword).trans (if_pos hlen)⟩

end

end Sys2Proof.Machine

namespace Sys2Proof.Proofs
open Sys2Proof.Machine

/-- Settles O8: COMPUTECRC folds the first `n` bytes, and the fold is the same for every permutation of them. -/
theorem computeCrcIsTheXorOfTheBytes : Obligations.ComputeCrcIsTheXorOfTheBytes := by
  intro bytes n s hbuf hlen
  refine ⟨rfl, exec_computeCrc_of_le s hbuf hlen, fun others hperm => ?_⟩
  have hcount : others.length = n := hperm.length_eq.trans (List.length_take_of_le hlen)
  rw [exec_computeCrc_of_le s hbuf hcount.ge, exec_computeCrc_of_le s hbuf hlen, List.take_of_length_le hcount.le,
    crcOf_perm hperm]

/-- Settles O9: the wire bytes are those of the words of the frame in order, then their CRC. -/
theorem encodeGivesTheWireBytes : Obligations.EncodeGivesTheWireBytes := by
  intro command sender recipient payload len s
  refine ⟨rfl, exec_encode_of_lt command sender recipient s, fun h => ?_⟩
  exact ⟨_, exec_encode_of_le command sender recipient s h, length_frameBytes _ command sender recipient payload len h,
    fun k j w hk hj hw => getElem?_frameBytes _ command sender recipient h hk hj hw,
    getElem?_frameBytes_last _ command sender recipient h⟩

/-- Settles O11: what PARSE answers is `parseFrame`, whose `ok` condition and fields the lemmas above give. -/
theorem parseReadsTheFrame : Obligations.ParseReadsTheFrame := by
  intro bytes n s hbuf hlen
  refine ⟨rfl, _, exec_parse_of_le s hbuf hlen, isSome_parseFrame_iff hlen, fun f hf => ?_⟩
  obtain ⟨⟨h5, hmod⟩, hpayload, hfields, hwords, hcrc⟩ := (parseFrame_eq_some_iff hlen).mp hf
  refine ⟨hfields, length_words_of_parseFrame hlen hf, fun k b0 b1 b2 b3 hk h0 h1 h2 h3 => ?_, hcrc⟩
  rw [hwords]
  exact getElem?_wordsOfWire_take hlen (by omega) h0 h1 h2 h3

/-- Settles O12: a frame ends in its CRC, so it validates, and no valid string stays valid when one byte changes. -/
theorem encodedFrameValidates : Obligations.EncodedFrameValidates := by
  intro command sender recipient payload len s h
  have hbuf := frameSize_le_bufBytes len
  have hlen := (length_frameBytes s.cfg.hdrLayout command sender recipient payload len h).ge
  have hvalid := crcValid_frameBytes s.cfg.hdrLayout command sender recipient h
  refine ⟨_, _, exec_encode_of_le command sender recipient s h, ?_, fun i x hi hx => ?_⟩
  · rw [exec_validate_of_le s hbuf hlen, hvalid]
  · rw [exec_validate_of_le s hbuf (by rwa [List.length_set]), crcValid_set_of_ne hlen hvalid hi hx]

end Sys2Proof.Proofs
end

section
/-! The address codec (spec/41_address_codec.md): settles O15 and O16. First the two arithmetic facts that tie the operands
to the fields of an address, then what each of the three steps answers. -/

namespace Sys2Proof.Machine

/-! ## The fields of an address (R95, R140, R142) -/

/-- A player number that R140 allows fits the two bits of its field. -/
theorem setWidth_two_setWidth_eight {player : Byte} (h : player.toNat ≤ 3) :
    (player.setWidth 2).setWidth 8 = player := by
  have hfit : player.toNat < 2 ^ 2 := Nat.lt_succ_of_le h
  apply BitVec.eq_of_toNat_eq
  rw [BitVec.toNat_setWidth, BitVec.toNat_setWidth, Nat.mod_eq_of_lt hfit, Nat.mod_eq_of_lt player.isLt]

/-- Cutting off all but the low five bits is masking with `0x1F`. -/
theorem submask_setWidth_eight (addr : Byte) : (submask addr).setWidth 8 = addr &&& 0x1F := by
  have hlow : addr.toNat &&& 31 = addr.toNat % 32 := Nat.and_two_pow_sub_one_eq_mod addr.toNat 5
  apply BitVec.eq_of_toNat_eq
  rw [BitVec.toNat_and, show (0x1F : Byte).toNat = 31 from rfl, hlow]
  simp only [submask, BitVec.toNat_setWidth, BitVec.extractLsb'_toNat, Nat.shiftRight_zero]
  omega

/-! ## What the three steps answer -/

section
variable {player i : Byte} (s : State)

theorem exec_getRecipientAddress_of_badPlayer (target : Target) (h : 3 < player.toNat) :
    exec (.getRecipientAddress player target) s = .refused .badPlayer :=
  if_pos h

theorem exec_getRecipientAddress_main (h : player.toNat ≤ 3) :
    exec (.getRecipientAddress player .main) s = .next { s with ret := .addr ((player <<< 6) ||| 0x20) } := by
  calc exec (.getRecipientAddress player .main) s
      = handBack s (.addr (mainAddress (player.setWidth 2))) := if_neg (Nat.not_lt.mpr h)
    _ = .next { s with ret := .addr ((player <<< 6) ||| 0x20) } := by
      rw [mainAddress_eq_or, setWidth_two_setWidth_eight h]; rfl

theorem exec_getRecipientAddress_sub (h : player.toNat ≤ 3) (hi : i.toNat ≤ 4) :
    exec (.getRecipientAddress player (.sub i)) s =
      .next { s with ret := .addr ((player <<< 6) ||| (1 <<< i.toNat)) } := by
  have hi5 : i.toNat < 5 := Nat.lt_succ_of_le hi
  calc exec (.getRecipientAddress player (.sub i)) s
      = handBack s (.addr (subAddress (player.setWidth 2) ⟨i.toNat, hi5⟩)) :=
        (if_neg (Nat.not_lt.mpr h)).trans (dif_pos hi5)
    _ = .next { s with ret := .addr ((player <<< 6) ||| (1 <<< i.toNat)) } := by
      rw [subAddress_eq_or, setWidth_two_setWidth_eight h]; rfl

theorem exec_getRecipientAddress_of_badSubIndex (h : player.toNat ≤ 3) (hi : 4 < i.toNat) :
    exec (.getRecipientAddress player (.sub i)) s = .refused .badSubIndex :=
  (if_neg (Nat.not_lt.mpr h)).trans (dif_neg (Nat.not_lt.mpr hi))

end

section
variable {addr : Byte} (s : State)

theorem exec_subPeripheralMask :
    exec (.subPeripheralMask addr) s = .next { s with ret := .mask (addr &&& 0x1F) } :=
  congrArg (handBack s <| .mask ·) (submask_setWidth_eight addr)

theorem exec_subPeripheralIndex_of_some {i : Fin 5} (h : oneHotIndex (submask addr) = some i) :
    exec (.subPeripheralIndex addr) s = .next { s with ret := .index i.val } := by
  simp only [exec, execSubPeripheralIndex, h, handBack]

theorem exec_subPeripheralIndex_of_none (h : oneHotIndex (submask addr) = none) :
    exec (.subPeripheralIndex addr) s = .refused .notOneHot := by
  simp only [exec, execSubPeripheralIndex, h]

end

end Sys2Proof.Machine

namespace Sys2Proof.Proofs
open Sys2Proof.Machine

/-- Settles O15: the player is tested first, then the target; an operand that passes fits its field, so the fields put
together are the player shifted by 6, or-ed with the node's bit. -/
theorem recipientAddressIsComposed : Obligations.RecipientAddressIsComposed := by
  intro player i s
  exact ⟨fun _ => rfl, exec_getRecipientAddress_main s, exec_getRecipientAddress_sub s,
    fun h target => exec_getRecipientAddress_of_badPlayer s target h, exec_getRecipientAddress_of_badSubIndex s⟩

/-- Settles O16: the submask field is the address masked with `0x1F`, and it has an index exactly when it is one-hot. -/
theorem maskAndIndexOfAnAddress : Obligations.MaskAndIndexOfAnAddress := by
  intro addr s
  exact ⟨rfl, rfl, exec_subPeripheralMask s,
    fun i h => exec_subPeripheralIndex_of_some s (oneHotIndex_of_eq addr i h),
    fun h => exec_subPeripheralIndex_of_none s (oneHotIndex_of_ne addr h)⟩

end Sys2Proof.Proofs
end

section
/-! The end of a transmission (spec/42_bus_transmitter.md R164): settles O27. First what TXCOMPLETE answers when the engine is
at rest, then that TX.END is TXCOMPLETE on the state in which END is emitted. -/

namespace Sys2Proof.Machine

/-- The time a bus has reached is the clock's, outside an open-line window. -/
theorem Bus.instant_of_windowEnd_le {bus : Bus} {now : Nat} (h : bus.windowEnd ≤ now) : bus.instant now = now :=
  max_eq_left h

/-! ## TXCOMPLETE with the engine at rest (R210) -/

section
variable {bus : Bus} (c : Ctx) (hw : bus.t.writeBusy = true) (hp : bus.t.txPhase = .idle)
include hw hp

theorem Bus.takeTxComplete_of_no_response (he : bus.t.expectResponse = false) :
    bus.takeTxComplete c = .ok { bus with t := { bus.t with writeBusy := false } } := by
  simp [Bus.takeTxComplete, hw, hp, he]

theorem Bus.takeTxComplete_of_response (he : bus.t.expectResponse = true) :
    bus.takeTxComplete c =
      .ok { bus with t := ({ bus.t with writeBusy := false } : Transport).arm (bus.instant c.now) } := by
  simp [Bus.takeTxComplete, hw, hp, he]

end

/-! ## TX.END (R164) -/

/-- The bus once END is emitted: both lines released, the transmit engine at rest. -/
def Bus.endEmitted (bus : Bus) : Bus :=
  { bus with
    t := { bus.t with txPhase := .idle, driveA := .release, driveB := .release }
    wireTx := bus.wireTx ++ [.stop] }

/-- Whatever shape END has, the release of both lines overwrites the drives it leaves. -/
theorem Bus.txEnd_of_stop {bus : Bus} (c : Ctx) (h : bus.t.txPhase = .stop) :
    bus.txEnd c = bus.endEmitted.takeTxComplete c := by
  have overwritten : ({ bus.t.driveShape c.cfg.endSeq with
      driveA := .release, driveB := .release, txPhase := .idle } : Transport) = bus.endEmitted.t := by
    rw [Transport.driveShape_eq]; rfl
  rw [Bus.txEnd, if_pos h]
  simp only [Bus.emit, overwritten]
  rfl

/-- An event is another event on the state in which the bus is already replaced, when it does to the bus that was there
what the other does to the new one. -/
theorem busEvent_eq_busEvent_set {b : BusId} {s : State} {f g : Ctx → Bus → Except Refusal Bus} {bus bus' : Bus}
    (hb : s.buses[b.val]? = some bus) (hfg : f (ctxOf s b) bus = g (ctxOf s b) bus') :
    busEvent b s f = busEvent b { s with buses := s.buses.set b.val bus' } g := by
  have hb' : (s.buses.set b.val bus')[b.val]? = some bus' := by rw [getElem?_set_bus hb, if_pos rfl]
  have hctx : ctxOf { s with buses := s.buses.set b.val bus' } b = ctxOf s b := ctxOf_congr b rfl rfl
  cases hg : g (ctxOf s b) bus' with
  | error e => rw [busEvent_of_error hb (hfg.trans hg), busEvent_of_error hb' (hctx ▸ hg)]
  | ok bus'' => rw [busEvent_of_ok hb (hfg.trans hg), busEvent_of_ok hb' (hctx ▸ hg), List.set_set]

section
variable {s : State} {b : BusId} {bus : Bus} (hb : s.buses[b.val]? = some bus) (hp : bus.t.txPhase = .stop)
include hb hp

theorem exec_txEnd_of_stop :
    exec (.txEnd b) s = exec (.txComplete b) { s with buses := s.buses.set b.val bus.endEmitted } := by
  rw [exec_txEnd, exec_txComplete]
  exact busEvent_eq_busEvent_set hb (Bus.txEnd_of_stop _ hp)

theorem exec_txEnd_of_no_response (hw : bus.t.writeBusy = true) (he : bus.t.expectResponse = false) :
    exec (.txEnd b) s = .next { s with
      buses := s.buses.set b.val { bus.endEmitted with t := { bus.endEmitted.t with writeBusy := false } } } :=
  busEvent_of_ok hb <| (Bus.txEnd_of_stop _ hp).trans <| Bus.takeTxComplete_of_no_response _ hw rfl he

theorem exec_txEnd_of_response (hwin : bus.windowEnd ≤ s.now) (hw : bus.t.writeBusy = true)
    (he : bus.t.expectResponse = true) :
    exec (.txEnd b) s = .next { s with
      buses := s.buses.set b.val
        { bus.endEmitted with t := ({ bus.endEmitted.t with writeBusy := false } : Transport).arm s.now } } := by
  have hnow : bus.endEmitted.instant (ctxOf s b).now = s.now := Bus.instant_of_windowEnd_le hwin
  have hcomplete := Bus.takeTxComplete_of_response (bus := bus.endEmitted) (ctxOf s b) hw rfl he
  rw [hnow] at hcomplete
  exact busEvent_of_ok hb ((Bus.txEnd_of_stop _ hp).trans hcomplete)

end

end Sys2Proof.Machine

namespace Sys2Proof.Proofs
open Sys2Proof.Machine

/-- Settles O27: TX.END is TXCOMPLETE on the state in which END is emitted; both outcomes are TXCOMPLETE's there. -/
theorem txEndTakesTxComplete : Obligations.TxEndTakesTxComplete := by
  intro s b bus hb hwin
  exact ⟨rfl, exec_txEnd_of_stop hb, exec_txEnd_of_no_response hb, fun hp => exec_txEnd_of_response hb hp hwin⟩

end Sys2Proof.Proofs
end

section
/-! The receive engine outside a byte (spec/43_bus_receiver.md): settles O29 and O32. First a micro-step in the phase it is
enabled in; then that RX.END is RXCOMPLETE on the state in which the engine is off, and that RXCOMPLETE completes there with
the read phase over, whatever it makes of the bytes. -/

namespace Sys2Proof.Machine

/-- A receiver micro-step in its own active phase has its effect (R103). -/
theorem Bus.onSymbol_of_phase {bus : Bus} {phase : RxPhase} (f : Bus → Except Refusal Bus) (hp : bus.t.rxPhase = phase)
    (hoff : phase ≠ .off) (hdead : phase ≠ .dead) : bus.onSymbol phase f = f bus := by
  subst hp
  rw [Bus.onSymbol, if_neg (not_or.2 ⟨hoff, hdead⟩), if_pos rfl]

/-! ## RX.WAITSTART (R177) -/

theorem Bus.rxWaitStart_of_waitStart {bus : Bus} (symbol : Symbol) (hp : bus.t.rxPhase = .waitStart) :
    bus.rxWaitStart symbol =
      if symbol = .start then .ok { bus with t := { bus.t with rxPhase := .data } } else .ok bus :=
  Bus.onSymbol_of_phase _ hp nofun nofun

section
variable {s : State} {b : BusId} {bus : Bus} (hb : s.buses[b.val]? = some bus) (hp : bus.t.rxPhase = .waitStart)
include hb hp

theorem exec_rxWaitStart_start :
    exec (.rxWaitStart b .start) s =
      .next { s with buses := s.buses.set b.val { bus with t := { bus.t with rxPhase := .data } } } := by
  rw [exec_rxWaitStart]
  exact busEvent_of_ok hb <| (Bus.rxWaitStart_of_waitStart .start hp).trans (if_pos rfl)

theorem exec_rxWaitStart_of_ne_start {symbol : Symbol} (hne : symbol ≠ .start) :
    exec (.rxWaitStart b symbol) s = .next s := by
  rw [exec_rxWaitStart]
  exact busEvent_of_same hb <| (Bus.rxWaitStart_of_waitStart symbol hp).trans (if_neg hne)

end

/-! ## RXCOMPLETE with the engine off (R212) -/

/-- Once raised, RXCOMPLETE completes when the received bytes can be read and fit the buffer. -/
theorem Bus.takeRxComplete_completes {bus : Bus} (c : Ctx) (hr : bus.t.readBusy = true) (hp : bus.t.rxPhase = .off)
    (hcount : bus.t.rbCount ≤ bufBytes) (hrb : ∀ a, a < bus.t.rbCount → (readCell bus.t.rb a).isSome = true) :
    ∃ bus', bus.takeRxComplete c bus.t.rbCount = .ok bus' := by
  obtain ⟨bytes, hbytes⟩ := readCells_of_written bus.t.rb bus.t.rbCount 0 (by simpa using hrb)
  rw [Bus.takeRxComplete, if_pos hr, if_neg (by simp [hp])]
  split
  · exact ⟨_, rfl⟩
  · rw [if_neg (Nat.not_lt.2 hcount), hbytes]
    exact ⟨_, rfl⟩

/-- RXCOMPLETE ends the read phase with a label, or publishes a frame that did not end inside a byte. -/
theorem Bus.takeRxComplete_discards_or_publishes {c : Ctx} {bus bus' : Bus} {count : Nat}
    (h : bus.takeRxComplete c count = .ok bus') :
    (∃ label, bus' = ({ bus with t := { bus.t with readBusy := false } } : Bus).raise label) ∨
      (bus.t.rxBad = false ∧
        ∃ frame, bus' = { bus with t := ({ bus.t with readBusy := false } : Transport).publish frame }) := by
  obtain ⟨_, ⟨_, rfl⟩ | ⟨⟨hbad, _, _⟩, _, bytes, _, rfl⟩⟩ := Bus.takeRxComplete_ok h
  · exact .inl ⟨_, rfl⟩
  · rcases Bus.judge_cases c _ bytes count with hj | hj | ⟨frame, _, _, hj⟩
    · exact .inl ⟨_, hj⟩
    · exact .inl ⟨_, hj⟩
    · exact .inr ⟨hbad, frame, hj⟩

/-! ## RX.END (R182) -/

/-- The bus once END is received: an incomplete byte latched, the receive engine off. -/
def Bus.endReceived (bus : Bus) : Bus :=
  { bus with t := { bus.t with rxBad := decide (bus.t.rxBitCnt ≠ 0), rxPhase := .off } }

theorem Bus.rxEnd_of_data {bus : Bus} (c : Ctx) (hp : bus.t.rxPhase = .data) :
    bus.rxEnd c = bus.endReceived.takeRxComplete c bus.t.rbCount :=
  Bus.onSymbol_of_phase _ hp nofun nofun

/-- What RXCOMPLETE leaves of the bus on which END was received, published or not. -/
theorem Bus.takeRxComplete_endReceived {c : Ctx} {bus bus' : Bus} {count : Nat}
    (h : bus.endReceived.takeRxComplete c count = .ok bus') :
    bus'.t.rxPhase = .off ∧ bus'.t.readBusy = false ∧ bus'.t.rxBad = decide (bus.t.rxBitCnt ≠ 0) ∧
      bus'.t.rb = bus.t.rb ∧ bus'.t.wb = bus.t.wb ∧ bus'.main = bus.main ∧ bus'.subs = bus.subs ∧
      (bus.t.rxBitCnt ≠ 0 → bus'.t.lv = bus.t.lv ∧ bus'.t.lvLen = bus.t.lvLen ∧ bus'.t.lvNew = bus.t.lvNew) := by
  obtain ⟨label, rfl⟩ | ⟨hbad, frame, rfl⟩ := Bus.takeRxComplete_discards_or_publishes h
  · exact ⟨rfl, rfl, rfl, rfl, rfl, rfl, rfl, fun _ => ⟨rfl, rfl, rfl⟩⟩
  · have hwhole : ¬ bus.t.rxBitCnt ≠ 0 := of_decide_eq_false hbad
    exact ⟨rfl, rfl, rfl, rfl, rfl, rfl, rfl, fun hinside => absurd hinside hwhole⟩

theorem exec_rxEnd_of_data {s : State} {b : BusId} {bus : Bus} (hb : s.buses[b.val]? = some bus)
    (hp : bus.t.rxPhase = .data) :
    exec (.rxEnd b) s =
      exec (.rxComplete b bus.t.rbCount) { s with buses := s.buses.set b.val bus.endReceived } := by
  rw [exec_rxEnd, exec_rxComplete]
  exact busEvent_eq_busEvent_set hb (Bus.rxEnd_of_data _ hp)

end Sys2Proof.Machine

namespace Sys2Proof.Proofs
open Sys2Proof.Machine

/-- Settles O29: START opens the frame; the bus is put back as it was on every other symbol. -/
theorem rxWaitStartWaitsForStart : Obligations.RxWaitStartWaitsForStart := by
  intro s b bus hb
  exact ⟨fun _ => rfl, exec_rxWaitStart_start hb, fun hp _ => exec_rxWaitStart_of_ne_start hb hp⟩

/-- Settles O32: RX.END is RXCOMPLETE on the state in which END is received, and RXCOMPLETE completes there. -/
theorem rxEndTakesRxComplete : Obligations.RxEndTakesRxComplete := by
  intro s b bus hb
  refine ⟨rfl, exec_rxEnd_of_data hb, fun hp hr hcount hrb => ?_⟩
  obtain ⟨bus', hok⟩ : ∃ bus', bus.endReceived.takeRxComplete (ctxOf s b) bus.t.rbCount = .ok bus' :=
    Bus.takeRxComplete_completes (bus := bus.endReceived) _ hr rfl hcount hrb
  exact ⟨bus', busEvent_of_ok hb ((Bus.rxEnd_of_data _ hp).trans hok), Bus.takeRxComplete_endReceived hok⟩

end Sys2Proof.Proofs
end

section
/-! The transport's host operations and TXCOMPLETE (spec/44_bus_transport.md): settles O20, O21, O22 and O23. Each operation's
effect on its bus first, case by case, then what the step answers on a bus that is there. -/

namespace Sys2Proof.Machine

theorem getElem?_set_bus_same {l : List Bus} {b : Nat} {bus bus' : Bus} (h : l[b]? = some bus) :
    (l.set b bus')[b]? = some bus' :=
  (getElem?_set_bus h).trans (if_pos rfl)

/-! ## WRITE that fails (R204, R205) -/

theorem Transport.busy_iff (t : Transport) : t.busy = true ↔ t.writeBusy = true ∨ t.readBusy = true :=
  Bool.or_eq_true_iff

section
variable {bus : Bus} {c : Ctx} {command recipient : Byte} {payload : List Word} {len : Byte} {expect : Bool} {timeout : Word}

theorem Bus.write_of_busy (h : bus.t.busy = true) :
    bus.write c command recipient payload len expect timeout = (bus.raise .busBusy, false) :=
  if_pos h

/-- Both ways to fail, a busy bus and a line that is not idle, add a label and at most end a window. -/
theorem Bus.write_frame_of_failed {bus' : Bus}
    (h : bus.write c command recipient payload len expect timeout = (bus', false)) :
    bus'.t = bus.t ∧ bus'.main = bus.main ∧ bus'.subs = bus.subs ∧ bus'.wireTx = bus.wireTx := by
  rcases bus.write_cases c command recipient payload len expect timeout with
    ⟨_, hbusy⟩ | ⟨_, _, hnotIdle⟩ | ⟨_, _, haccepted⟩
  · cases h.symm.trans hbusy
    exact ⟨rfl, rfl, rfl, rfl⟩
  · cases h.symm.trans hnotIdle
    exact ⟨rfl, rfl, rfl, rfl⟩
  · cases h.symm.trans haccepted

end

theorem exec_write_of_le {s : State} {b : BusId} {bus : Bus} (hb : s.buses[b.val]? = some bus) (command recipient : Byte)
    {payload : List Word} {len : Byte} (hlen : len.toNat ≤ payload.length) (expect : Bool) (timeout : Word) :
    exec (.write b command recipient payload len expect timeout) s =
      .next { s with
        buses := s.buses.set b.val (bus.write (ctxOf s b) command recipient payload len expect timeout).1
        ret := .bool (bus.write (ctxOf s b) command recipient payload len expect timeout).2 } := by
  rw [exec_write]
  exact busOperation_of_ok hb (if_neg (Nat.not_lt.2 hlen))

/-! ## GETREADDATA (R207) -/

theorem exec_getReadData_of_readCells {s : State} {b : BusId} {bus : Bus} {words : List Word}
    (hb : s.buses[b.val]? = some bus) (hread : readCells bus.t.lv 0 bus.t.lvLen = .ok words) :
    exec (.getReadData b) s =
      .next { s with
        buses := s.buses.set b.val { bus with t := { bus.t with lvNew := false } }
        ret := .readData words bus.t.lvLen bus.t.lvNew } := by
  rw [exec_getReadData]
  exact busOperation_of_ok hb (by simp [Bus.getReadData, hread, Except.bind])

/-- The second call reads the same snapshot, which the first left in place with its flag cleared. -/
theorem execAll_getReadData_twice {s : State} {b : BusId} {bus : Bus} {words : List Word}
    (hb : s.buses[b.val]? = some bus) (hread : readCells bus.t.lv 0 bus.t.lvLen = .ok words) :
    execAll [.getReadData b, .getReadData b] s =
      .next { s with
        buses := s.buses.set b.val { bus with t := { bus.t with lvNew := false } }
        ret := .readData words bus.t.lvLen false } := by
  refine (execAll_cons_of_next (exec_getReadData_of_readCells hb hread)).trans ?_
  refine (execAll_cons_of_next (exec_getReadData_of_readCells (bus := { bus with t := { bus.t with lvNew := false } })
    (getElem?_set_bus_same hb) hread)).trans ?_
  rw [execAll_nil, List.set_set]

/-! ## PROCESSEVENTS (R208) -/

theorem expired_iff (currentTime deadline : Nat) : expired currentTime deadline = true ↔ deadline ≤ currentTime :=
  decide_eq_true_iff

section
variable {bus : Bus} {currentTime : Nat}

theorem Bus.processEvents_of_write_expired (hw : bus.t.writeBusy = true) (hd : bus.t.deadline ≤ currentTime) :
    bus.processEvents currentTime = { bus.raise .writeTimeout with t := bus.t.abortWrite } := by
  simp [Bus.processEvents, hw, expired_iff, hd]

theorem Bus.processEvents_of_read_expired (hw : bus.t.writeBusy = false) (hr : bus.t.readBusy = true)
    (hd : bus.t.deadline ≤ currentTime) :
    bus.processEvents currentTime = { bus.raise .readTimeout with t := bus.t.abortRead } := by
  simp [Bus.processEvents, hw, hr, expired_iff, hd]

theorem Bus.processEvents_of_running_or_free
    (h : currentTime < bus.t.deadline ∨ (bus.t.writeBusy = false ∧ bus.t.readBusy = false)) :
    bus.processEvents currentTime = bus := by
  rcases h with hearly | ⟨hw, hr⟩
  · simp [Bus.processEvents, expired_iff, Nat.not_le.2 hearly]
  · simp [Bus.processEvents, hw, hr]

end

theorem exec_processEvents_of_eq {s : State} {b : BusId} {bus bus' : Bus} {currentTime : Nat}
    (hb : s.buses[b.val]? = some bus) (h : bus.processEvents currentTime = bus') :
    exec (.processEvents b currentTime) s = .next { s with buses := s.buses.set b.val bus', ret := .none } := by
  rw [exec_processEvents]
  exact busOperation_of_ok hb (by rw [h])

/-! ## TXCOMPLETE (R210) -/

theorem exec_txComplete_of_not_writeBusy {s : State} {b : BusId} {bus : Bus} (hb : s.buses[b.val]? = some bus)
    (hw : bus.t.writeBusy = false) : exec (.txComplete b) s = .refused .notWriteBusy := by
  rw [exec_txComplete]
  exact busEvent_of_error hb (by simp [Bus.takeTxComplete, hw])

section
variable {s : State} {b : BusId} {bus : Bus} (hb : s.buses[b.val]? = some bus) (hw : bus.t.writeBusy = true)
  (hp : bus.t.txPhase = .idle)
include hb hw hp

theorem exec_txComplete_of_no_response (he : bus.t.expectResponse = false) :
    exec (.txComplete b) s =
      .next { s with buses := s.buses.set b.val { bus with t := { bus.t with writeBusy := false } } } := by
  rw [exec_txComplete]
  exact busEvent_of_ok hb (Bus.takeTxComplete_of_no_response _ hw hp he)

theorem exec_txComplete_of_response (hwin : bus.windowEnd ≤ s.now) (he : bus.t.expectResponse = true) :
    exec (.txComplete b) s =
      .next { s with
        buses := s.buses.set b.val { bus with t := ({ bus.t with writeBusy := false } : Transport).arm s.now } } := by
  rw [exec_txComplete]
  have hcomplete := Bus.takeTxComplete_of_response (ctxOf s b) hw hp he
  rw [ctxOf_now, Bus.instant_of_windowEnd_le hwin] at hcomplete
  exact busEvent_of_ok hb hcomplete

end

end Sys2Proof.Machine

namespace Sys2Proof.Proofs
open Sys2Proof.Machine

/-- Settles O20: a WRITE on a busy bus is one of those that fail, and those leave the transport alone. -/
theorem failedWriteLeavesTheTransport : Obligations.FailedWriteLeavesTheTransport := by
  intro s b bus command recipient payload len expect timeout hb hlen
  refine ⟨_, _, exec_write_of_le hb command recipient hlen expect timeout,
    getElem?_set_bus_same hb, fun hbusy => ?_, fun hfailed => ?_⟩
  · rw [Bus.write_of_busy ((Transport.busy_iff _).2 hbusy)]
  · exact Bus.write_frame_of_failed (Prod.ext rfl (Ret.bool.inj hfailed))

/-- Settles O21: the given words are what the snapshot's cells read as. -/
theorem getReadDataAnswersTheSnapshot : Obligations.GetReadDataAnswersTheSnapshot := by
  intro s b bus words hb hlength hcells
  have hread : readCells bus.t.lv 0 bus.t.lvLen = .ok words :=
    (readCells_ok_iff _ _ _ _).2 ⟨hlength, by simpa using hcells⟩
  exact ⟨rfl, exec_getReadData_of_readCells hb hread, execAll_getReadData_twice hb hread⟩

/-- Settles O22: the write phase is looked at first, then the read phase; an unchanged bus is put back where it was. -/
theorem processEventsEnforcesTheDeadline : Obligations.ProcessEventsEnforcesTheDeadline := by
  intro s b bus currentTime hb
  refine ⟨rfl, fun hw hd => ?_, fun hw hr hd => ?_, fun h => ?_⟩
  · exact exec_processEvents_of_eq hb (Bus.processEvents_of_write_expired hw hd)
  · exact exec_processEvents_of_eq hb (Bus.processEvents_of_read_expired hw hr hd)
  · rw [exec_processEvents_of_eq hb (Bus.processEvents_of_running_or_free h), set_bus_self hb]

/-- Settles O23: the transmitter at rest, TXCOMPLETE ends the write phase and arms the receiver on the same transport. -/
theorem txCompleteEndsTheWritePhase : Obligations.TxCompleteEndsTheWritePhase := by
  intro s b bus hb hwin
  exact ⟨rfl, exec_txComplete_of_not_writeBusy hb, exec_txComplete_of_no_response hb,
    fun hw hp => exec_txComplete_of_response hb hw hp hwin⟩

end Sys2Proof.Proofs
end

section
/-! The peripheral node (spec/45_peripheral_node.md): settles O37, O39, O40 and O41. First what each operation makes of its
bus, branch by branch, then what the step answers on a bus that is there. MAIN.DISPATCH is NODE.HANDLEDATA of the node its
sender names. -/

namespace Sys2Proof.Machine

/-! ## NODE.HANDLEDATA (R232) -/

/-- Presence that is set is the only thing NODE.SETCONNECTED changes then, on a main node as on a sub-node. -/
theorem Bus.setConnected_true (bus : Bus) (id : NodeId) :
    bus.setConnected id true = bus.setNode id { bus.node id with present := true } := by
  cases id <;> rfl

section
variable {c : Ctx} {bus : Bus} {id : NodeId} {len cmd : Byte} {payload : List Word}

theorem Bus.handleData_of_newController (hcmd : cmd = c.cfg.cmdDeviceInfoResponse)
    (htest : evalFrameTest len payload c.cfg.isController = true) (hfree : (bus.node id).poller.attached = false) :
    bus.handleData c id len cmd payload =
      (bus.setNode id (Node.attach c.cfg { bus.node id with present := true }), true) := by
  simp [Bus.handleData, hcmd, htest, hfree, Bus.setConnected_true, Bus.updNode, Bus.node_setNode_same]

theorem Bus.handleData_of_deviceInfo (hcmd : cmd = c.cfg.cmdDeviceInfoResponse)
    (hkeep : evalFrameTest len payload c.cfg.isController = false ∨ (bus.node id).poller.attached = true) :
    bus.handleData c id len cmd payload = (bus.setNode id { bus.node id with present := true }, true) := by
  rcases hkeep with htest | hattached
  · simp [Bus.handleData, hcmd, htest, Bus.setConnected_true]
  · simp [Bus.handleData, hcmd, hattached, Bus.setConnected_true]

theorem Bus.handleData_of_dataTransfer (hinfo : cmd ≠ c.cfg.cmdDeviceInfoResponse) (hdata : cmd = c.cfg.cmdDataTransfer)
    (hattached : (bus.node id).poller.attached = true) :
    bus.handleData c id len cmd payload = (bus.setNode id ((bus.node id).latch len cmd payload), true) :=
  (if_neg hinfo).trans (if_pos ⟨hdata, hattached⟩)

theorem Bus.handleData_of_unexpected (hinfo : cmd ≠ c.cfg.cmdDeviceInfoResponse)
    (hother : cmd ≠ c.cfg.cmdDataTransfer ∨ (bus.node id).poller.attached = false) :
    bus.handleData c id len cmd payload = (bus.raise .unexpectedFrame, false) := by
  have hnodata : ¬ (cmd = c.cfg.cmdDataTransfer ∧ (bus.node id).poller.attached = true) := by
    rwa [not_and_or, Bool.not_eq_true]
  exact (if_neg hinfo).trans (if_neg hnodata)

end

theorem exec_nodeHandleData_of_le {s : State} {b : BusId} {bus bus' : Bus} {id : NodeId} {len cmd : Byte}
    {payload : List Word} {handled : Bool} (hb : s.buses[b.val]? = some bus) (hlen : len.toNat ≤ payload.length)
    (h : bus.handleData (ctxOf s b) id len cmd payload = (bus', handled)) :
    exec (.nodeHandleData b id len cmd payload) s =
      .next { s with buses := s.buses.set b.val bus', ret := .bool handled } := by
  rw [exec_nodeHandleData]
  exact busOperation_of_ok hb ((if_neg (Nat.not_lt.2 hlen)).trans (by rw [h]))

/-! ## NODE.MAINPERIPHERALDISCONNECTED and NODE.ISPRESENT (R242, R244) -/

/-- A node that is disconnected takes its poller with it. -/
theorem Node.setConnected_false (n : Node) :
    n.setConnected false =
      if n.poller.attached then
        { n with
          present := false
          poller := { n.poller with attached := false, newData := false }
          calls := n.calls ++ [.updateControllerConnected false] }
      else { n with present := false } := rfl

theorem Bus.node_sub_disconnectSubs (bus : Bus) (i : Fin 5) :
    bus.disconnectSubs.node (.sub i) = (bus.node (.sub i)).setConnected false :=
  SubNodes.get_map _ _ i

section
variable {s : State} {b : BusId} {bus : Bus} (hb : s.buses[b.val]? = some bus)
include hb

theorem exec_nodeMainPeripheralDisconnected_sub (i : Fin 5) :
    exec (.nodeMainPeripheralDisconnected b (.sub i)) s = .refused .notMainNode := by
  rw [exec_nodeMainPeripheralDisconnected]
  exact busOperation_of_error hb rfl

theorem exec_nodeMainPeripheralDisconnected_main :
    exec (.nodeMainPeripheralDisconnected b .main) s =
      .next { s with buses := s.buses.set b.val bus.disconnectSubs, ret := .none } := by
  rw [exec_nodeMainPeripheralDisconnected]
  exact busOperation_of_ok hb rfl

theorem exec_nodeIsPresent_of_bus (id : NodeId) :
    exec (.nodeIsPresent b id) s = .next { s with ret := .bool (bus.node id).present } := by
  rw [exec_nodeIsPresent, busOperation_of_ok hb rfl, set_bus_self hb]

end

/-! ## MAIN.DISPATCH (R246) -/

section
variable {bus : Bus} {sender : Byte}

theorem Bus.route_main (h5 : sender.getLsbD 5 = true) : bus.route sender = some .main :=
  if_pos h5

theorem Bus.route_of_not_main (h5 : sender.getLsbD 5 = false) :
    bus.route sender = if bus.main.present then (oneHotIndex (submask sender)).map NodeId.sub else none :=
  if_neg (Bool.eq_false_iff.1 h5)

theorem Bus.route_sub {i : Fin 5} (h5 : sender.getLsbD 5 = false) (hpresent : bus.main.present = true)
    (hi : sender &&& 0x1F = 1 <<< i.val) : bus.route sender = some (.sub i) := by
  rw [Bus.route_of_not_main h5, if_pos hpresent, oneHotIndex_of_eq sender i hi, Option.map_some]

theorem Bus.route_none (h5 : sender.getLsbD 5 = false)
    (h : bus.main.present = false ∨ ∀ i : Fin 5, sender &&& 0x1F ≠ 1 <<< i.val) : bus.route sender = none := by
  rw [Bus.route_of_not_main h5]
  rcases h with habsent | hmask
  · rw [if_neg (Bool.eq_false_iff.1 habsent)]
  · rw [oneHotIndex_of_ne sender hmask, Option.map_none, ite_self]

end

section
variable {c : Ctx} {bus : Bus} {cmd recipient sender len : Byte} {payload : List Word}

/-- A frame whose sender names a node of this bus is that node's NODE.HANDLEDATA. -/
theorem Bus.dispatch_of_route {id : NodeId} (hplayer : playerOf sender = c.player) (hroute : bus.route sender = some id)
    (hlen : len.toNat ≤ payload.length) :
    bus.dispatch c (headerWord c.cfg.hdrLayout cmd recipient sender len :: payload) =
      .ok (bus.handleData c id len cmd payload) := by
  simp [Bus.dispatch, hplayer, hroute, Nat.not_lt.2 hlen]

/-- A frame whose sender names no node of this bus is ignored. -/
theorem Bus.dispatch_of_no_route (h : playerOf sender = c.player → bus.route sender = none) :
    bus.dispatch c (headerWord c.cfg.hdrLayout cmd recipient sender len :: payload) =
      .ok (bus.raise .unexpectedFrame, false) := by
  have hnone : (if playerOf sender = c.player then bus.route sender else none) = none :=
    ite_eq_right_iff.2 h
  simp [Bus.dispatch, hnone]

end

section
variable {s : State} {b : BusId} {bus : Bus} (hb : s.buses[b.val]? = some bus)
include hb

theorem exec_mainDispatch_zero (words : List Word) : exec (.mainDispatch b words 0) s = .refused .emptyFrame := by
  rw [exec_mainDispatch]
  exact busOperation_of_error hb rfl

theorem exec_mainDispatch_of_le {words : List Word} {length : Nat} {bus' : Bus} {handled : Bool} (hpos : 0 < length)
    (hle : length ≤ words.length) (h : bus.dispatch (ctxOf s b) words = .ok (bus', handled)) :
    exec (.mainDispatch b words length) s =
      .next { s with buses := s.buses.set b.val bus', ret := .bool handled } := by
  rw [exec_mainDispatch]
  exact busOperation_of_ok hb (by rw [if_neg hpos.ne', if_neg (Nat.not_lt.2 hle), h])

variable {cmd recipient sender len : Byte} {payload : List Word} {length : Nat} (hpos : 0 < length)
  (hle : length ≤ (headerWord s.cfg.hdrLayout cmd recipient sender len :: payload).length)
include hpos hle

/-- A handed-over frame completes, as the NODE.HANDLEDATA of the node its sender names. -/
theorem exec_mainDispatch_of_route {id : NodeId} (hplayer : playerOf sender = playerOfBus s.cfg b.val)
    (hroute : bus.route sender = some id) (hlen : len.toNat ≤ payload.length) :
    ∃ t : State,
      exec (.mainDispatch b (headerWord s.cfg.hdrLayout cmd recipient sender len :: payload) length) s = .next t ∧
      exec (.nodeHandleData b id len cmd payload) s = .next t :=
  ⟨_, exec_mainDispatch_of_le hb hpos hle (Bus.dispatch_of_route hplayer hroute hlen),
    exec_nodeHandleData_of_le hb hlen rfl⟩

theorem exec_mainDispatch_of_no_route (h : playerOf sender = playerOfBus s.cfg b.val → bus.route sender = none) :
    exec (.mainDispatch b (headerWord s.cfg.hdrLayout cmd recipient sender len :: payload) length) s =
      .next { s with buses := s.buses.set b.val (bus.raise .unexpectedFrame), ret := .bool false } :=
  exec_mainDispatch_of_le hb hpos hle (Bus.dispatch_of_no_route h)

end

end Sys2Proof.Machine

namespace Sys2Proof.Proofs
open Sys2Proof.Machine

/-- Settles O37: the four cases are the four branches of NODE.HANDLEDATA; a latched word is looked up by its index. -/
theorem handleDataByCommand : Obligations.HandleDataByCommand := by
  rintro s b bus id len cmd payload _ hb rfl
  refine ⟨rfl, fun hlen hcmd htest hfree => ?_, fun hlen hcmd hkeep => ?_, fun hlen hinfo hdata hattached => ?_,
    fun hlen hinfo hother => ?_⟩
  · exact exec_nodeHandleData_of_le hb hlen (Bus.handleData_of_newController hcmd htest hfree)
  · exact exec_nodeHandleData_of_le hb hlen (Bus.handleData_of_deviceInfo hcmd hkeep)
  · have hfirst : payload.headD 0 = payload.getD 0 0 := by cases payload <;> rfl
    rw [exec_nodeHandleData_of_le hb hlen (Bus.handleData_of_dataTransfer hinfo hdata hattached), Node.latch, hfirst]
  · exact exec_nodeHandleData_of_le hb hlen (Bus.handleData_of_unexpected hinfo hother)

/-- Settles O39: only the sub-nodes of the bus are mapped, each by NODE.SETCONNECTED(false). -/
theorem mainPeripheralDisconnectedMakesSubNodesAbsent : Obligations.MainPeripheralDisconnectedMakesSubNodesAbsent := by
  intro s b bus hb
  refine ⟨fun _ => rfl, exec_nodeMainPeripheralDisconnected_sub hb, bus.disconnectSubs,
    exec_nodeMainPeripheralDisconnected_main hb, rfl, rfl, rfl, rfl, rfl, rfl, fun i => ?_⟩
  rw [Bus.node_sub_disconnectSubs, Node.setConnected_false]

/-- Settles O40: the bus is put back as it was. -/
theorem isPresentAnswersPresence : Obligations.IsPresentAnswersPresence := by
  intro s b bus id hb
  exact ⟨rfl, exec_nodeIsPresent_of_bus hb id⟩

/-- Settles O41: each case says which node the sender names, if any. -/
theorem dispatchBySender : Obligations.DispatchBySender := by
  rintro s b bus cmd recipient sender len payload length _ hb rfl
  refine ⟨rfl, exec_mainDispatch_zero hb _, fun hpos hle hother => ?_, fun hpos hle hplayer hlen h5 => ?_,
    fun hpos hle hplayer hlen h5 hpresent i hi => ?_, fun hpos hle _ h5 hnobody => ?_⟩
  · exact exec_mainDispatch_of_no_route hb hpos hle fun hplayer => absurd hplayer hother
  · exact exec_mainDispatch_of_route hb hpos hle hplayer (Bus.route_main h5) hlen
  · exact exec_mainDispatch_of_route hb hpos hle hplayer (Bus.route_sub h5 hpresent hi) hlen
  · exact exec_mainDispatch_of_no_route hb hpos hle fun _ => Bus.route_none h5 hnobody

end Sys2Proof.Proofs
end

section
/-! COND.DECODE and FORWARD_CHANGES (spec/46_controller_poller.md R268, R270): settles O48 and O49. The signed value of a
centered byte first; then which setter calls a changed field makes, field by field, and where `send()` stands. -/

namespace Sys2Proof.Machine

/-! ## COND.DECODE (R268) -/

/-- Centering adds 128 modulo 256, which flips the top bit, so the signed value is exact and needs no clamp. -/
theorem toInt_center (x : Byte) : (center x).toInt = (x.toNat : Int) - 128 := by
  have hx := x.isLt
  have hcenter : (center x).toNat = (x.toNat + 128) % 256 := by
    rw [center, BitVec.toNat_sub, Nat.add_comm]
    rfl
  rw [BitVec.toInt_eq_toNat_cond, hcenter]
  omega

theorem exec_condDecode (w0 w1 : Word) (s : State) :
    exec (.condDecode w0 w1) s =
      .next { s with ret := .condition (decodeCondition s.cfg.condLayout w0 w1) } := rfl

/-! ## The calls of one field (R270) -/

/-- A field changed, and to `v`. -/
def ChangedTo {α : Type} (old new v : α) : Prop := new = v ∧ old ≠ v

section
variable {α : Type} [DecidableEq α] {old new : α} {call : α → CollabCall} {x : CollabCall}

theorem mem_callIfChanged : x ∈ callIfChanged old new call ↔ ∃ v, ChangedTo old new v ∧ call v = x := by
  unfold callIfChanged
  split
  · next same => simp [ChangedTo, same]
  · next changed => simp [ChangedTo, Ne.symm changed, eq_comm]

theorem callIfChanged_self (a : α) (call : α → CollabCall) : callIfChanged a a call = [] := if_pos rfl

theorem callIfChanged_sublist (old new : α) (call : α → CollabCall) :
    (callIfChanged old new call).Sublist [call new] := by
  unfold callIfChanged
  split
  · exact List.nil_sublist _
  · exact List.Sublist.refl _

end

/-! ## The setter calls (R270) -/

section
variable (n : Nat) (old new : Condition)

/-- One call for every field of the record, with its value, in the order of R270, and `send()`. -/
def allCalls : List CollabCall :=
  (List.range n).map (fun i => .setButton i (new.buttons.getD i false)) ++
    [.setDigitalPad .up new.padUp, .setDigitalPad .down new.padDown, .setDigitalPad .left new.padLeft,
      .setDigitalPad .right new.padRight, .setAnalogTrigger true new.triggerLeft,
      .setAnalogTrigger false new.triggerRight, .setAnalogThumb .x true new.thumbXLeft,
      .setAnalogThumb .y true new.thumbYLeft, .setAnalogThumb .x false new.thumbXRight,
      .setAnalogThumb .y false new.thumbYRight, .send]

theorem buttonCalls_sublist :
    (buttonCalls n old new).Sublist ((List.range n).map fun i => .setButton i (new.buttons.getD i false)) := by
  unfold buttonCalls
  induction List.range n with
  | nil => exact List.Sublist.refl _
  | cons i is ih =>
    rw [List.flatMap_cons, List.map_cons]
    exact (callIfChanged_sublist ..).append ih

theorem setterCalls_send_sublist : (setterCalls n old new ++ [CollabCall.send]).Sublist (allCalls n new) := by
  simp only [setterCalls, List.append_assoc]
  refine (buttonCalls_sublist n old new).append ?_
  iterate 10 refine (callIfChanged_sublist ..).append ?_
  exact List.Sublist.refl _

theorem setterCalls_self : setterCalls n old old = [] := by
  simp [setterCalls, buttonCalls, callIfChanged_self]

variable {n old new} {x : CollabCall}

/-- A setter call names a field of the record and the value to which that field changed. -/
theorem mem_setterCalls : x ∈ setterCalls n old new ↔
    (∃ i < n, ∃ v, ChangedTo (old.buttons.getD i false) (new.buttons.getD i false) v ∧ .setButton i v = x) ∨
    (∃ v, ChangedTo old.padUp new.padUp v ∧ .setDigitalPad .up v = x) ∨
    (∃ v, ChangedTo old.padDown new.padDown v ∧ .setDigitalPad .down v = x) ∨
    (∃ v, ChangedTo old.padLeft new.padLeft v ∧ .setDigitalPad .left v = x) ∨
    (∃ v, ChangedTo old.padRight new.padRight v ∧ .setDigitalPad .right v = x) ∨
    (∃ v, ChangedTo old.triggerLeft new.triggerLeft v ∧ .setAnalogTrigger true v = x) ∨
    (∃ v, ChangedTo old.triggerRight new.triggerRight v ∧ .setAnalogTrigger false v = x) ∨
    (∃ v, ChangedTo old.thumbXLeft new.thumbXLeft v ∧ .setAnalogThumb .x true v = x) ∨
    (∃ v, ChangedTo old.thumbYLeft new.thumbYLeft v ∧ .setAnalogThumb .y true v = x) ∨
    (∃ v, ChangedTo old.thumbXRight new.thumbXRight v ∧ .setAnalogThumb .x false v = x) ∨
    (∃ v, ChangedTo old.thumbYRight new.thumbYRight v ∧ .setAnalogThumb .y false v = x) := by
  simp only [setterCalls, buttonCalls, List.mem_append, List.mem_flatMap, List.mem_range, mem_callIfChanged, or_assoc]

theorem send_notMem_setterCalls : CollabCall.send ∉ setterCalls n old new := by
  simp [mem_setterCalls]

/-! ## FORWARD_CHANGES (R270) -/

theorem forwardChanges_of_nil (h : setterCalls n old new = []) : forwardChanges n old new = [] := by
  rw [forwardChanges, h]

theorem forwardChanges_of_ne_nil (h : setterCalls n old new ≠ []) :
    forwardChanges n old new = setterCalls n old new ++ [.send] := by
  unfold forwardChanges
  split
  · next hnil => exact absurd hnil h
  · next hcons => rw [hcons]

/-- Apart from `send()`, the calls are the setter calls. -/
theorem mem_forwardChanges_of_ne_send (hx : x ≠ .send) :
    x ∈ forwardChanges n old new ↔ x ∈ setterCalls n old new := by
  by_cases h : setterCalls n old new = []
  · rw [forwardChanges_of_nil h, h]
  · rw [forwardChanges_of_ne_nil h, List.mem_append, List.mem_singleton, or_iff_left hx]

theorem forwardChanges_nil_or_ends_in_send : forwardChanges n old new = [] ∨
    ∃ calls, calls ≠ [] ∧ forwardChanges n old new = calls ++ [.send] ∧ CollabCall.send ∉ calls := by
  by_cases h : setterCalls n old new = []
  · exact .inl (forwardChanges_of_nil h)
  · exact .inr ⟨_, h, forwardChanges_of_ne_nil h, send_notMem_setterCalls⟩

theorem forwardChanges_sublist : (forwardChanges n old new).Sublist (allCalls n new) := by
  by_cases h : setterCalls n old new = []
  · rw [forwardChanges_of_nil h]
    exact List.nil_sublist _
  · rw [forwardChanges_of_ne_nil h]
    exact setterCalls_send_sublist n old new

end

end Sys2Proof.Machine

namespace Sys2Proof.Proofs
open Sys2Proof.Machine

/-- Settles O48: a flag is the negated bit, an analog field the centered byte. -/
theorem condDecodeCentersAndInverts : Obligations.CondDecodeCentersAndInverts := by
  rintro w0 w1 s _ _ rfl rfl
  have flag : ∀ b : Bool, (!b) = decide (b = false) := by decide
  refine ⟨rfl, _, exec_condDecode w0 w1 s, List.length_map .., fun k i hi => ?_, flag _, flag _, flag _, flag _,
    toInt_center _, toInt_center _, toInt_center _, toInt_center _, toInt_center _, toInt_center _⟩
  rw [decodeCondition, List.getElem?_map, hi, Option.map_some, flag]

/-- Settles O49: a call that is not `send()` is a setter call, and those say which field changed to which value. -/
theorem forwardChangesCallsForChangedFields : Obligations.ForwardChangesCallsForChangedFields := by
  intro k old new
  refine ⟨fun i v => ?_, fun v => ?_, fun v => ?_, fun v => ?_, fun v => ?_, fun v => ?_, fun v => ?_, fun v => ?_,
    fun v => ?_, fun v => ?_, fun v => ?_, forwardChanges_nil_or_ends_in_send,
    forwardChanges_of_nil (setterCalls_self k old), forwardChanges_sublist⟩
  all_goals
    rw [mem_forwardChanges_of_ne_send, mem_setterCalls]
    · simp [ChangedTo]
    · nofun

end Sys2Proof.Proofs
end

section
/-! The controller poller (spec/46_controller_poller.md): settles O44, O45 and O46. POLLER.TICK first, on the bus: what
transition 1 leaves (R260), then transition 2 branch by branch (R262); then the steps. Where a rule says that a tick goes on
from a later bus, the tick is shown to be the tick of that bus. -/

namespace Sys2Proof.Machine

/-- A label and the replacement of a node do not see each other. -/
theorem Bus.raise_setNode (bus : Bus) (id : NodeId) (n : Node) (label : Cond) :
    (bus.setNode id n).raise label = (bus.raise label).setNode id n := by
  cases id <;> rfl

/-! ## Transition 1 (R260) -/

section
variable {c : Ctx} {bus : Bus} {id : NodeId} {currentTime : Nat}

theorem Bus.transition1_of_no_data (hdata : (bus.node id).poller.newData = false) : bus.transition1 c id = bus :=
  if_neg (Bool.eq_false_iff.1 hdata)

theorem Poller.expectedShape_iff (p : Params) (q : Poller) :
    q.expectedShape p = true ↔ q.rxCmd = p.cmdDataTransfer ∧ q.rxLen = p.condRespLen := by
  simp [Poller.expectedShape]

section
variable (hdata : (bus.node id).poller.newData = true)
include hdata

theorem Bus.transition1_of_response (hshape : (bus.node id).poller.expectedShape c.cfg = true) {new : Condition}
    (hnew : decodeCondition c.cfg.condLayout (bus.node id).poller.rxW0 (bus.node id).poller.rxW1 = new) :
    bus.transition1 c id =
      bus.setNode id
        { bus.node id with
          poller := { (bus.node id).poller with newData := false, noData := 0, waiting := false, cond := new }
          calls := (bus.node id).calls ++
            forwardChanges c.cfg.condLayout.buttonBits.length (bus.node id).poller.cond new } := by
  subst hnew
  rw [Bus.transition1, if_pos hdata, if_pos hshape, Bus.updNode, Node.takeData, if_pos hshape]
  rfl

theorem Bus.transition1_of_unexpected (hshape : ¬ (bus.node id).poller.expectedShape c.cfg = true) :
    bus.transition1 c id =
      (bus.raise .unexpectedFrame).setNode id
        { bus.node id with
          poller := { (bus.node id).poller with newData := false, noData := 0, waiting := false } } := by
  rw [Bus.transition1, if_pos hdata, if_neg hshape, Bus.updNode, Node.takeData, if_neg hshape, Bus.raise_setNode]

end

variable (c bus id) in
/-- Whatever was latched, transition 1 leaves no new data on the same slot. -/
theorem Bus.poller_transition1 :
    ((bus.transition1 c id).node id).poller.newData = false ∧
      ((bus.transition1 c id).node id).poller.attached = (bus.node id).poller.attached := by
  cases hdata : (bus.node id).poller.newData with
  | false => rw [Bus.transition1_of_no_data hdata]; exact ⟨hdata, rfl⟩
  | true =>
    by_cases hshape : (bus.node id).poller.expectedShape c.cfg = true
    · rw [Bus.transition1_of_response hdata hshape rfl, Bus.node_setNode_same]; exact ⟨rfl, rfl⟩
    · rw [Bus.transition1_of_unexpected hdata hshape, Bus.node_setNode_same]; exact ⟨rfl, rfl⟩

/-! ## Transition 2 (R262): a tick with no new data -/

theorem Bus.tick_of_no_data (hdata : (bus.node id).poller.newData = false) :
    bus.tick c currentTime id = bus.transition2 c currentTime id := by
  rw [Bus.tick, Bus.transition1_of_no_data hdata]

/-- Transition 1 comes first: the tick goes on as the tick of the bus it leaves. -/
theorem Bus.tick_eq_tick_transition1 : bus.tick c currentTime id = (bus.transition1 c id).tick c currentTime id :=
  (Bus.tick_of_no_data (bus.poller_transition1 c id).1).symm

section
variable (hdata : (bus.node id).poller.newData = false)
include hdata

theorem Bus.tick_of_early (hearly : currentTime < (bus.node id).poller.nextCheck) :
    bus.tick c currentTime id = (bus, true) := by
  rw [Bus.tick_of_no_data hdata, Bus.transition2, if_neg (by simpa [expired_iff] using hearly)]

variable (hdue : (bus.node id).poller.nextCheck ≤ currentTime)
include hdue

theorem Bus.tick_of_not_waiting (hwait : (bus.node id).poller.waiting = false) :
    bus.tick c currentTime id = (bus.poll c currentTime id, true) := by
  rw [Bus.tick_of_no_data hdata, Bus.transition2, if_pos ((expired_iff ..).2 hdue), if_neg (Bool.eq_false_iff.1 hwait)]

theorem Bus.tick_of_waiting (hwait : (bus.node id).poller.waiting = true) :
    bus.tick c currentTime id = bus.missedPoll c currentTime id := by
  rw [Bus.tick_of_no_data hdata, Bus.transition2, if_pos ((expired_iff ..).2 hdue), if_pos hwait]

end

/-! ## A missed poll (R262) -/

/-- The bus once a miss below the threshold is counted and the wait for it is over. -/
def Bus.missCounted (bus : Bus) (id : NodeId) : Bus :=
  (bus.raise .missedPoll).setNode id
    { bus.node id with
      poller := { (bus.node id).poller with noData := (bus.node id).poller.noData + 1, waiting := false } }

section
variable (hdata : (bus.node id).poller.newData = false) (hdue : (bus.node id).poller.nextCheck ≤ currentTime)
include hdata hdue

/-- With the miss counted, the same slot is due and waits for nothing: a tick of it polls. -/
theorem Bus.tick_missCounted :
    (bus.missCounted id).tick c currentTime id = ((bus.missCounted id).poll c currentTime id, true) := by
  have hnode : (bus.missCounted id).node id = _ := Bus.node_setNode_same ..
  exact Bus.tick_of_not_waiting (by rw [hnode]; exact hdata) (by rw [hnode]; exact hdue) (by rw [hnode])

variable (hwait : (bus.node id).poller.waiting = true)
include hwait

theorem Bus.tick_of_threshold (hcount : (bus.node id).poller.noData + 1 = disconnectThreshold) :
    bus.tick c currentTime id =
      (((bus.raise .missedPoll).raise .disconnect).setNode id
        { bus.node id with
          poller :=
            { (bus.node id).poller with
              cond := neutralCondition c.cfg.condLayout, noData := 0, waiting := false } }, false) := by
  rw [Bus.tick_of_waiting hdata hdue hwait, Bus.missedPoll, if_pos hcount, Bus.updPoller, Bus.updNode,
    Bus.raise_setNode, Bus.node_raise]

theorem Bus.tick_of_below_threshold (hcount : (bus.node id).poller.noData + 1 ≠ disconnectThreshold) :
    bus.tick c currentTime id =
      (if c.cfg.repollOnMiss then (bus.missCounted id).poll c currentTime id else bus.missCounted id, true) := by
  rw [Bus.tick_of_waiting hdata hdue hwait, Bus.missedPoll, if_neg hcount, Bus.updPoller, Bus.updNode, Bus.node_raise]
  rfl

theorem Bus.tick_of_miss (hcount : (bus.node id).poller.noData + 1 ≠ disconnectThreshold)
    (hrepoll : c.cfg.repollOnMiss = false) : bus.tick c currentTime id = (bus.missCounted id, true) := by
  rw [Bus.tick_of_below_threshold hdata hdue hwait hcount, if_neg (Bool.eq_false_iff.1 hrepoll)]

/-- With REPOLL_ON_MISS the rest of the tick is a tick of the bus with the miss counted. -/
theorem Bus.tick_of_miss_repolled (hcount : (bus.node id).poller.noData + 1 ≠ disconnectThreshold)
    (hrepoll : c.cfg.repollOnMiss = true) : bus.tick c currentTime id = (bus.missCounted id).tick c currentTime id := by
  rw [Bus.tick_of_below_threshold hdata hdue hwait hcount, if_pos hrepoll, Bus.tick_missCounted hdata hdue]

end

end

/-! ## The steps -/

section
variable {s : State} {b : BusId} {bus : Bus} (hb : s.buses[b.val]? = some bus)
include hb

theorem exec_pollerAttach_of_bus (id : NodeId) :
    exec (.pollerAttach b id) s =
      .next { s with buses := s.buses.set b.val (bus.setNode id ((bus.node id).attach s.cfg)), ret := .none } := by
  rw [exec_pollerAttach]
  exact busOperation_of_ok hb rfl

theorem exec_pollerDetach_of_bus (id : NodeId) :
    exec (.pollerDetach b id) s =
      .next { s with buses := s.buses.set b.val (bus.setNode id (bus.node id).detach), ret := .none } := by
  rw [exec_pollerDetach]
  exact busOperation_of_ok hb rfl

variable {id : NodeId} {currentTime : Nat}

theorem exec_pollerTick_of_not_attached (hattached : (bus.node id).poller.attached = false) :
    exec (.pollerTick b id currentTime) s = .refused .notAttached := by
  rw [exec_pollerTick]
  exact busOperation_of_error hb (if_neg (Bool.eq_false_iff.1 hattached))

variable (hattached : (bus.node id).poller.attached = true)
include hattached

theorem exec_pollerTick_of_tick {bus' : Bus} {connected : Bool}
    (h : bus.tick (ctxOf s b) currentTime id = (bus', connected)) :
    exec (.pollerTick b id currentTime) s =
      .next { s with buses := s.buses.set b.val bus', ret := .bool connected } := by
  rw [exec_pollerTick]
  exact busOperation_of_ok hb ((if_pos hattached).trans (by rw [h]))

/-- A tick that is the tick of another bus completes as the tick of the state in which that bus is already in place. -/
theorem exec_pollerTick_eq_of_tick_eq {bus' : Bus} (hattached' : (bus'.node id).poller.attached = true)
    (h : bus.tick (ctxOf s b) currentTime id = bus'.tick (ctxOf s b) currentTime id) :
    ∃ t : State, exec (.pollerTick b id currentTime) s = .next t ∧
      exec (.pollerTick b id currentTime) { s with buses := s.buses.set b.val bus' } = .next t := by
  refine ⟨_, exec_pollerTick_of_tick hb hattached h, ?_⟩
  rw [exec_pollerTick_of_tick (getElem?_set_bus_same hb) hattached' rfl, List.set_set]
  rfl

/-- With new data, a tick is the tick of the state that transition 1 leaves. -/
theorem exec_pollerTick_of_transition1 {bus' : Bus} (h : bus.transition1 (ctxOf s b) id = bus') :
    ∃ t : State, exec (.pollerTick b id currentTime) s = .next t ∧
      exec (.pollerTick b id currentTime) { s with buses := s.buses.set b.val bus' } = .next t := by
  subst h
  exact exec_pollerTick_eq_of_tick_eq hb hattached ((bus.poller_transition1 _ id).2.trans hattached)
    Bus.tick_eq_tick_transition1

end

end Sys2Proof.Machine

namespace Sys2Proof.Proofs
open Sys2Proof.Machine

/-- Settles O44: only the named node changes, by the bookkeeping of its slot and the call into the collaborator. -/
theorem attachAndDetachBeginAndEndThePoller : Obligations.AttachAndDetachBeginAndEndThePoller := by
  intro s b bus id hb
  exact ⟨rfl, exec_pollerAttach_of_bus hb id, rfl, exec_pollerDetach_of_bus hb id⟩

/-- Settles O45: the branches of transition 2. A poll is the WRITE and, if it is accepted, the start of a wait. -/
theorem tickPollsCountsMissesAndDisconnects : Obligations.TickPollsCountsMissesAndDisconnects := by
  rintro s b bus id currentTime _ hb rfl hattached hdata
  refine ⟨fun hearly => ?_, fun hdue hwait => ?_, fun hdue hwait hcount => ?_, fun hdue hwait hcount hrepoll => ?_,
    fun hdue hwait hcount hrepoll => ?_⟩
  · rw [exec_pollerTick_of_tick hb hattached (Bus.tick_of_early hdata hearly), set_bus_self hb]
  · refine ⟨_, _, _, exec_write_of_le hb _ _ (condReqLen_le s.cfg) _ _, rfl, getElem?_set_bus_same hb, ?_⟩
    rw [exec_pollerTick_of_tick hb hattached (Bus.tick_of_not_waiting hdata hdue hwait), List.set_set]
    rfl
  · rw [exec_pollerTick_of_tick hb hattached (Bus.tick_of_threshold hdata hdue hwait hcount)]
    simp [Bus.raise]
  · exact exec_pollerTick_of_tick hb hattached (Bus.tick_of_miss hdata hdue hwait hcount hrepoll)
  · have hattached' : ((bus.missCounted id).node id).poller.attached = true := by
      rw [Bus.missCounted, Bus.node_setNode_same]
      exact hattached
    exact exec_pollerTick_eq_of_tick_eq hb hattached hattached'
      (Bus.tick_of_miss_repolled hdata hdue hwait hcount hrepoll)

/-- Settles O46: in both shapes the tick is the tick of the bus that transition 1 leaves. -/
theorem tickTakesNewDataFirst : Obligations.TickTakesNewDataFirst := by
  rintro s b bus id currentTime _ hb rfl
  refine ⟨rfl, exec_pollerTick_of_not_attached hb, fun hattached hdata hcmd hlen => ?_,
    fun hattached hdata hother => ?_⟩
  · have hshape := (Poller.expectedShape_iff s.cfg (bus.node id).poller).2 ⟨hcmd, hlen⟩
    obtain ⟨t, htick, hlater⟩ :=
      exec_pollerTick_of_transition1 hb hattached (Bus.transition1_of_response hdata hshape rfl)
    exact ⟨_, t, exec_condDecode _ _ s, htick, hlater⟩
  · have hshape : ¬ (bus.node id).poller.expectedShape s.cfg = true := by
      rwa [Poller.expectedShape_iff, not_and_or]
    exact exec_pollerTick_of_transition1 hb hattached (Bus.transition1_of_unexpected hdata hshape)

end Sys2Proof.Proofs
end

section
/-! Operand preconditions (spec/70_reset_and_hazards.md R336): settles O6. The codecs' files say what a short payload, a bad
player or a mask that is not one-hot gives; what is missing there is the byte-count test and WRITE's test of its payload. -/

namespace Sys2Proof.Machine

/-- A count above `BUF_BYTES`, or above the number of bytes there are, is refused whatever would be handed back. -/
theorem onBytes_refused {bytes : List Byte} {n : Nat} (h : bytes.length < n ∨ 1029 < n) (s : State) (r : Ret) :
    ∃ e, onBytes bytes n s r = .refused e := by
  by_cases hbuf : bufBytes < n
  · exact ⟨.countTooLarge, if_pos hbuf⟩
  · have hshort : bytes.length < n := h.resolve_right hbuf
    exact ⟨.arrayTooShort, (if_neg hbuf).trans (if_pos hshort)⟩

theorem exec_write_of_lt {s : State} {b : BusId} {bus : Bus} (hb : s.buses[b.val]? = some bus) {payload : List Word}
    {len : Byte} (h : payload.length < len.toNat) (command recipient : Byte) (expect : Bool) (timeout : Word) :
    exec (.write b command recipient payload len expect timeout) s = .refused .arrayTooShort := by
  rw [exec_write]
  exact busOperation_of_error hb (if_pos h)

/-- A sub-peripheral index above 4 is refused for every player, under one name or the other. -/
theorem exec_getRecipientAddress_sub_refused {i : Byte} (h : 4 < i.toNat) (player : Byte) (s : State) :
    ∃ e, exec (.getRecipientAddress player (.sub i)) s = .refused e := by
  by_cases hplayer : 3 < player.toNat
  · exact ⟨_, exec_getRecipientAddress_of_badPlayer s (.sub i) hplayer⟩
  · exact ⟨_, exec_getRecipientAddress_of_badSubIndex s (Nat.not_lt.mp hplayer) h⟩

end Sys2Proof.Machine

namespace Sys2Proof.Proofs
open Sys2Proof.Machine

/-- Settles O6: each precondition is tested before anything is done. -/
theorem operandPreconditionsAreRefused : Obligations.OperandPreconditionsAreRefused := by
  intro s b bus hb
  refine ⟨fun command sender recipient len payload expect timeout h => ?_, fun bytes n h => ?_,
    fun player target h => ?_, fun player i h => ?_, fun addr h => ?_⟩
  · exact ⟨⟨_, exec_write_of_lt hb h command recipient expect timeout⟩,
      ⟨_, exec_encode_of_lt command sender recipient s h⟩⟩
  · exact ⟨onBytes_refused h s _, onBytes_refused h s _, onBytes_refused h s _⟩
  · exact ⟨_, exec_getRecipientAddress_of_badPlayer s target h⟩
  · exact exec_getRecipientAddress_sub_refused h player s
  · exact ⟨_, exec_subPeripheralIndex_of_none s (oneHotIndex_of_ne addr h)⟩

end Sys2Proof.Proofs
end

section
/-! The write buffer (spec/70_reset_and_hazards.md R337): settles O60. First two relations between the transport before and
after a step, the second of which only an accepted WRITE brings about; then each operation of the transport and its engines,
which leaves the write buffer alone; then every step. -/

namespace Sys2Proof.Machine

/-- The write buffer and its length are as before. -/
structure SameWriteBuffer (t t' : Transport) : Prop where
  wb : t'.wb = t.wb
  wbLen : t'.wbLen = t.wbLen

/-- A WRITE was accepted (R204): the bus was free, and now a write phase stands before its START. -/
structure WriteAccepted (t t' : Transport) : Prop where
  writeFree : t.writeBusy = false
  readFree : t.readBusy = false
  writeBusy : t'.writeBusy = true
  txPhase : t'.txPhase = .start

/-- The instructions that are a WRITE or call one (R106). -/
def CallsWrite (i : Instr) : Prop :=
  (∃ b command recipient payload len expect timeout, i = .write b command recipient payload len expect timeout) ∨
    (∃ b id currentTime, i = .nodeTask b id currentTime) ∨ ∃ b id currentTime, i = .pollerTick b id currentTime

theorem SameWriteBuffer.refl (t : Transport) : SameWriteBuffer t t := ⟨rfl, rfl⟩

theorem SameWriteBuffer.of_eq {t t' : Transport} (h : t' = t) : SameWriteBuffer t t' := h ▸ .refl t

theorem Transport.writeAccepted_accept {t : Transport} (hfree : t.busy = false) (p : Params) (t1 : Nat)
    (command recipient : Byte) (payload : List Word) (len : Byte) (expect : Bool) (timeout : Word) :
    WriteAccepted t (t.accept p t1 command recipient payload len expect timeout) := by
  obtain ⟨hwrite, hread⟩ := Bool.or_eq_false_iff.mp hfree
  exact ⟨hwrite, hread, rfl, rfl⟩

/-- Where at most one WRITE is accepted, nothing else reaches the write buffer. -/
theorem MayAccept.same_or_accepted {c : Ctx} {t t' : Transport} (h : MayAccept c t t') :
    SameWriteBuffer t t' ∨ WriteAccepted t t' := by
  obtain rfl | ⟨hfree, t1, command, recipient, payload, len, expect, timeout, _, rfl⟩ := h
  · exact .inl (.refl t')
  · exact .inr (Transport.writeAccepted_accept hfree ..)

/-- An answer passed through a function was an answer before. -/
theorem exists_ok_of_map_eq_ok {ε α β : Type} {f : α → β} {x : Except ε α} {y : β} (h : x.map f = .ok y) :
    ∃ a, x = .ok a ∧ f a = y := by
  cases x with
  | error e => cases h
  | ok a => exact ⟨a, rfl, Except.ok.inj h⟩

/-! ## The operations that leave the write buffer alone -/

section
variable {c : Ctx} {bus bus' : Bus}

theorem Bus.getReadData_sameWriteBuffer {words : List Word} {length : Nat} {isNew : Bool}
    (h : bus.getReadData = .ok (bus', words, length, isNew)) : SameWriteBuffer bus.t bus'.t := by
  obtain ⟨_, _, _, rfl⟩ := Bus.getReadData_ok h
  exact ⟨rfl, rfl⟩

theorem Bus.processEvents_sameWriteBuffer (bus : Bus) (currentTime : Nat) :
    SameWriteBuffer bus.t (bus.processEvents currentTime).t := by
  unfold Bus.processEvents
  split
  · exact ⟨rfl, rfl⟩
  · split <;> exact ⟨rfl, rfl⟩

theorem Bus.takeTxComplete_sameWriteBuffer (h : bus.takeTxComplete c = .ok bus') : SameWriteBuffer bus.t bus'.t := by
  obtain ⟨_, ⟨_, rfl⟩ | ⟨_, rfl⟩⟩ := Bus.takeTxComplete_ok h <;> exact ⟨rfl, rfl⟩

theorem Bus.takeRxComplete_sameWriteBuffer {count : Nat} (h : bus.takeRxComplete c count = .ok bus') :
    SameWriteBuffer bus.t bus'.t := by
  obtain ⟨_, ⟨_, rfl⟩ | ⟨_, _, bytes, _, rfl⟩⟩ := Bus.takeRxComplete_ok h
  · exact ⟨rfl, rfl⟩
  · obtain hj | hj | ⟨_, _, _, hj⟩ :=
        Bus.judge_cases c { bus with t := { bus.t with readBusy := false } } bytes count <;>
      rw [hj] <;> exact ⟨rfl, rfl⟩

/-! ## The transmit engine reads the write buffer, the receive engine writes the read buffer -/

theorem Bus.txStart_sameWriteBuffer (h : bus.txStart c = .ok bus') : SameWriteBuffer bus.t bus'.t := by
  unfold Bus.txStart at h
  split at h <;> cases h
  exact ⟨Transport.driveShape_wb .., Transport.driveShape_wbLen ..⟩

theorem Bus.txBit_sameWriteBuffer (h : bus.txBit c = .ok bus') : SameWriteBuffer bus.t bus'.t := by
  unfold Bus.txBit at h
  split at h
  · dsimp only at h
    split at h <;> cases h
    exact ⟨Transport.driveShape_wb .., Transport.driveShape_wbLen ..⟩
  · cases h

theorem Bus.txEnd_sameWriteBuffer (h : bus.txEnd c = .ok bus') : SameWriteBuffer bus.t bus'.t := by
  unfold Bus.txEnd at h
  split at h
  · obtain ⟨hwb, hlen⟩ := Bus.takeTxComplete_sameWriteBuffer h
    exact ⟨hwb.trans (Transport.driveShape_wb ..), hlen.trans (Transport.driveShape_wbLen ..)⟩
  · cases h

theorem Transport.shiftIn_sameWriteBuffer (t : Transport) (bit : Bool) : SameWriteBuffer t (t.shiftIn bit) := by
  unfold Transport.shiftIn Transport.storeByte
  dsimp only
  split
  · split <;> exact ⟨rfl, rfl⟩
  · exact ⟨rfl, rfl⟩

/-- A symbol that is dropped changes nothing, so a receiver micro-step keeps what its own effect keeps. -/
theorem Bus.onSymbol_sameWriteBuffer {phase : RxPhase} {f : Bus → Except Refusal Bus}
    (hf : f bus = .ok bus' → SameWriteBuffer bus.t bus'.t) (h : bus.onSymbol phase f = .ok bus') :
    SameWriteBuffer bus.t bus'.t := by
  obtain ⟨_, rfl⟩ | ⟨_, _, _, h⟩ := Bus.onSymbol_ok h
  · exact .refl _
  · exact hf h

theorem Bus.rxWaitStart_sameWriteBuffer {symbol : Symbol} (h : bus.rxWaitStart symbol = .ok bus') :
    SameWriteBuffer bus.t bus'.t := by
  refine Bus.onSymbol_sameWriteBuffer (fun hf => ?_) h
  split at hf <;> cases hf <;> exact ⟨rfl, rfl⟩

theorem Bus.rxBit_sameWriteBuffer {bit : ClockedBit} (h : bus.rxBit c bit = .ok bus') :
    SameWriteBuffer bus.t bus'.t := by
  refine Bus.onSymbol_sameWriteBuffer (fun hf => ?_) h
  cases hf
  dsimp only
  split
  · exact Transport.shiftIn_sameWriteBuffer ..
  · exact ⟨rfl, rfl⟩

theorem Bus.rxEnd_sameWriteBuffer (h : bus.rxEnd c = .ok bus') : SameWriteBuffer bus.t bus'.t := by
  refine Bus.onSymbol_sameWriteBuffer (fun hf => ?_) h
  obtain ⟨hwb, hlen⟩ := Bus.takeRxComplete_sameWriteBuffer hf
  exact ⟨hwb, hlen⟩

theorem Bus.rxBad_sameWriteBuffer (h : bus.rxBad = .ok bus') : SameWriteBuffer bus.t bus'.t := by
  refine Bus.onSymbol_sameWriteBuffer (fun hf => ?_) h
  cases hf
  exact ⟨rfl, rfl⟩

/-! ## Every step -/

/-- NODE.TASK clears the new-frame flag, which is no part of the write buffer, and then accepts at most one WRITE. -/
theorem Bus.task_same_or_accepted {currentTime : Nat} {id : NodeId} (h : bus.task c currentTime id = .ok bus') :
    SameWriteBuffer bus.t bus'.t ∨ WriteAccepted bus.t bus'.t := by
  have hmay := (Bus.task_mayAccept h).same_or_accepted
  split at hmay
  · exact hmay.imp (fun ⟨hwb, hlen⟩ => ⟨hwb, hlen⟩) fun ⟨hw, hr, hbusy, hphase⟩ => ⟨hw, hr, hbusy, hphase⟩
  · exact hmay

/-- A step that is no WRITE and calls none leaves the write buffer of its bus alone. -/
theorem busEffect_sameWriteBuffer {i : Instr} (hi : ¬ CallsWrite i) (h : busEffect c bus i = .ok bus') :
    SameWriteBuffer bus.t bus'.t := by
  cases i with
  | write => exact absurd (.inl ⟨_, _, _, _, _, _, _, rfl⟩) hi
  | nodeTask => exact absurd (.inr (.inl ⟨_, _, _, rfl⟩)) hi
  | pollerTick => exact absurd (.inr (.inr ⟨_, _, _, rfl⟩)) hi
  | getReadData =>
    obtain ⟨⟨_, words, length, isNew⟩, hread, rfl⟩ := exists_ok_of_map_eq_ok h
    exact Bus.getReadData_sameWriteBuffer hread
  | processEvents => cases h; exact bus.processEvents_sameWriteBuffer _
  | nodeHandleData =>
    simp only [busEffect] at h
    split at h <;> cases h
    exact .of_eq (Bus.handleData_t ..)
  | nodeSetConnected => cases h; exact .of_eq (Bus.setConnected_t ..)
  | nodeMainPeripheralDisconnected =>
    simp only [busEffect] at h
    split at h <;> cases h
    exact .refl _
  | mainDispatch =>
    simp only [busEffect] at h
    split_ifs at h
    obtain ⟨⟨_, handled⟩, hdispatch, rfl⟩ := exists_ok_of_map_eq_ok h
    exact .of_eq (Bus.dispatch_t hdispatch)
  | pollerAttach => cases h; exact .of_eq (Bus.updNode_t ..)
  | pollerDetach => cases h; exact .of_eq (Bus.updNode_t ..)
  | txComplete => exact Bus.takeTxComplete_sameWriteBuffer h
  | rxComplete => exact Bus.takeRxComplete_sameWriteBuffer h
  | txStart => exact Bus.txStart_sameWriteBuffer h
  | txBit => exact Bus.txBit_sameWriteBuffer h
  | txEnd => exact Bus.txEnd_sameWriteBuffer h
  | rxWaitStart => exact Bus.rxWaitStart_sameWriteBuffer h
  | rxBit => exact Bus.rxBit_sameWriteBuffer h
  | rxEnd => exact Bus.rxEnd_sameWriteBuffer h
  | rxBad => exact Bus.rxBad_sameWriteBuffer h
  | _ => cases h; exact .refl _

/-- A step that is a WRITE or calls one leaves the write buffer of its bus alone, or accepts the WRITE. -/
theorem busEffect_same_or_accepted {i : Instr} (hi : CallsWrite i) (h : busEffect c bus i = .ok bus') :
    SameWriteBuffer bus.t bus'.t ∨ WriteAccepted bus.t bus'.t := by
  obtain ⟨b, command, recipient, payload, len, expect, timeout, rfl⟩ | ⟨b, id, currentTime, rfl⟩ |
    ⟨b, id, currentTime, rfl⟩ := hi
  · simp only [busEffect] at h
    split at h <;> cases h
    next hlen => exact (bus.write_mayAccept c _ _ _ _ _ _ (Nat.not_lt.mp hlen)).same_or_accepted
  · exact Bus.task_same_or_accepted h
  · simp only [busEffect] at h
    split at h <;> cases h
    exact (bus.tick_mayAccept c currentTime id).same_or_accepted

end

/-- Every bus after a completed step: its write buffer is as before, or the step accepted a WRITE on it. -/
theorem exec_same_or_accepted {i : Instr} {s t : State} {b : Nat} {bus bus' : Bus} (h : exec i s = .next t)
    (hb : s.buses[b]? = some bus) (hb' : t.buses[b]? = some bus') :
    SameWriteBuffer bus.t bus'.t ∨ WriteAccepted bus.t bus'.t ∧ CallsWrite i := by
  obtain ⟨_, crc, r, rfl⟩ | ⟨a, old, new, r, _, ha, heffect, rfl, _⟩ := exec_effect h
  · cases hb.symm.trans hb'
    exact .inl (.refl _)
  · rw [getElem?_set_bus ha] at hb'
    split at hb'
    next hab =>
      subst hab
      cases hb'
      cases hb.symm.trans ha
      by_cases hi : CallsWrite i
      · exact (busEffect_same_or_accepted hi heffect).imp_right fun hacc => ⟨hacc, hi⟩
      · exact .inl (busEffect_sameWriteBuffer hi heffect)
    next =>
      cases hb.symm.trans hb'
      exact .inl (.refl _)

end Sys2Proof.Machine

namespace Sys2Proof.Proofs
open Sys2Proof.Machine

/-- Settles O60: a bus on which a WRITE was accepted was free, so on a busy one the write buffer is as before. -/
theorem writeBufferIsStableWhileBusy : Obligations.WriteBufferIsStableWhileBusy := by
  intro i s t b bus bus' h hb hb'
  obtain ⟨hwb, hlen⟩ | ⟨⟨hwrite, hread, hbusy, hphase⟩, hi⟩ := exec_same_or_accepted h hb hb'
  · exact ⟨fun _ => ⟨hwb, hlen⟩, fun hdiff => (hdiff.elim (· hwb) (· hlen)).elim⟩
  · refine ⟨fun hwasBusy => ?_, fun _ => ⟨hwrite, hread, hbusy, hphase, hi⟩⟩
    simp [hwrite, hread] at hwasBusy

end Sys2Proof.Proofs
end

section
/-! The decoder (spec/30_encoding.md section 6, log entry 7): settles O1, O2 and O4. A step's selector chooses its family's
decoder; there each operand reader takes off what the operand writer of the same kind put down. -/

namespace Sys2Proof

/-- A reader that succeeds hands its answer to the rest of the reading. -/
theorem ok_bind {α β : Type} (x : α) (f : α → Except DecodeError β) : (Except.ok x >>= f) = f x := rfl

/-- Decoding undoes encoding: in every family's decoder the readers stand in the order of the writers (R101 to R103). -/
theorem decode_encode {i : Instr} (hwf : i.wf = true) (rest : List Byte) :
    decode (encode i ++ rest) = .ok (i, rest) := by
  cases i
  case computeCrc | encode | validate | parse | getRecipientAddress | subPeripheralMask | subPeripheralIndex =>
    simp_all [encode, decode, Instr.selector, Instr.operandBytes, Instr.wf, decodeCodec, ok_bind, getU8_cons, getU16_put,
      getBytes_put, getWords_put, getTarget_put]
  case write | getReadData | processEvents | txComplete | rxComplete =>
    simp_all [encode, decode, Instr.selector, Instr.operandBytes, Instr.wf, decodeTransport, ok_bind, getU8_cons,
      getU16_put, getWord_put, getWords_put, getBool_put, getTime_put, getBus_put]
  case nodeHandleData | nodeTask | nodeSetConnected | nodeMainPeripheralDisconnected | nodeIsPresent | mainDispatch =>
    simp_all [encode, decode, Instr.selector, Instr.operandBytes, Instr.wf, decodeNode, ok_bind, getU8_cons, getU16_put,
      getWords_put, getBool_put, getTime_put, getBus_put, getNode_put]
  case pollerTick | pollerAttach | pollerDetach | condDecode =>
    simp [encode, decode, Instr.selector, Instr.operandBytes, decodePoller, ok_bind, getWord_put, getTime_put,
      getBus_put, getNode_put]
  case crcClear | crcUpdate | txStart | txBit | txEnd | rxWaitStart | rxBit | rxEnd | rxBad =>
    simp [encode, decode, Instr.selector, Instr.operandBytes, decodeSeq, ok_bind, getU8_cons, getBool_put, getBus_put,
      getLine_put, getSymbol_put]

end Sys2Proof

namespace Sys2Proof.Machine

/-- A front entry whose bytes decode is taken off the schedule and its step is run. -/
theorem step_of_decode {s : State} {e : Pending} {rest : List Pending} {i : Instr} {tail : List Byte}
    (hinput : s.input = e :: rest) (hdecode : decode e.code = .ok (i, tail)) :
    step s = exec i (s.takeEntry e rest) := by
  simp only [step, hinput, instrOf, hdecode]

end Sys2Proof.Machine

namespace Sys2Proof.Proofs
open Sys2Proof.Machine

/-- Settles O1: the operand readers undo the operand writers, in the same order. -/
theorem decodeOfEncodeIsTheStep : Obligations.DecodeOfEncodeIsTheStep :=
  fun _ rest hwf => decode_encode hwf rest

/-- Settles O2: the decoder runs on the six closed byte strings. -/
theorem writtenOutWordsDecode : Obligations.WrittenOutWordsDecode := by
  refine ⟨?_, ?_, ?_, ?_, ?_, ?_⟩ <;> rfl

/-- Settles O4: the state in which the entry is gone and the clock moved is `State.takeEntry`. -/
theorem stepRunsTheDecodedStep : Obligations.StepRunsTheDecodedStep :=
  fun _ _ _ _ _ hinput hdecode => step_of_decode hinput hdecode

end Sys2Proof.Proofs
end

section
/-! Which bus a step reaches (spec/10_state.md section 1, spec/60_exceptions.md sections 3 and 5): settles O56, O57 and O58. Every
step that names a bus is an operation on that bus whose effect is `busEffect`. -/

namespace Sys2Proof.Machine

/-! ## Every step on a bus as one operation -/

/-- An event is an operation that hands back what was handed back last. -/
theorem busEvent_eq_busOperation (b : BusId) (s : State) (f : Ctx → Bus → Except Refusal Bus) :
    busEvent b s f = busOperation b s fun c bus => (f c bus).map fun bus' => (bus', s.ret) := by
  unfold busEvent busOperation
  cases s.buses[b.val]? with
  | none => rfl
  | some bus => dsimp only; cases f (ctxOf s b) bus <;> rfl

theorem map_fst_map_pair {α β : Type} (x : Except Refusal α) (r : β) :
    (x.map fun a => (a, r)).map Prod.fst = x := by
  cases x <;> rfl

/-- An event whose effect is `busEffect`, as an operation. -/
theorem exec_eq_busOperation_of_busEvent {i : Instr} {b : BusId} {s : State}
    (h : exec i s = busEvent b s fun c bus => busEffect c bus i) :
    ∃ f, exec i s = busOperation b s f ∧ ∀ c bus, (f c bus).map Prod.fst = busEffect c bus i :=
  ⟨_, h.trans (busEvent_eq_busOperation b s _), fun _ _ => map_fst_map_pair _ _⟩

/-- A step that names a bus is an operation on it, with the effect `busEffect`. -/
theorem exec_eq_busOperation {i : Instr} {b : BusId} (hi : busOf i = some b) (s : State) :
    ∃ f, exec i s = busOperation b s f ∧ ∀ c bus, (f c bus).map Prod.fst = busEffect c bus i := by
  cases i
  case txComplete | rxComplete | txStart | txBit | txEnd | rxWaitStart | rxBit | rxEnd | rxBad =>
    cases hi; exact exec_eq_busOperation_of_busEvent rfl
  case processEvents => cases hi; exact ⟨_, exec_processEvents .., fun _ _ => rfl⟩
  case nodeSetConnected => cases hi; exact ⟨_, exec_nodeSetConnected .., fun _ _ => rfl⟩
  case nodeIsPresent => cases hi; exact ⟨_, exec_nodeIsPresent .., fun _ _ => rfl⟩
  case pollerAttach => cases hi; exact ⟨_, exec_pollerAttach .., fun _ _ => rfl⟩
  case pollerDetach => cases hi; exact ⟨_, exec_pollerDetach .., fun _ _ => rfl⟩
  case write =>
    cases hi; refine ⟨_, exec_write .., fun c bus => ?_⟩
    simp only [busEffect]; split <;> rfl
  case nodeHandleData =>
    cases hi; refine ⟨_, exec_nodeHandleData .., fun c bus => ?_⟩
    simp only [busEffect]; split <;> rfl
  case pollerTick =>
    cases hi; refine ⟨_, exec_pollerTick .., fun c bus => ?_⟩
    simp only [busEffect]; split <;> rfl
  case getReadData =>
    cases hi; refine ⟨_, exec_getReadData .., fun c bus => ?_⟩
    simp only [busEffect]; cases bus.getReadData <;> rfl
  case nodeTask id currentTime =>
    cases hi; refine ⟨_, exec_nodeTask .., fun c bus => ?_⟩
    simp only [busEffect]; cases bus.task c currentTime id <;> rfl
  case nodeMainPeripheralDisconnected id =>
    cases hi; refine ⟨_, exec_nodeMainPeripheralDisconnected .., fun c bus => ?_⟩
    cases id <;> rfl
  case mainDispatch words length =>
    cases hi; refine ⟨_, exec_mainDispatch .., fun c bus => ?_⟩
    simp only [busEffect]
    split
    · rfl
    · split
      · rfl
      · cases bus.dispatch c words <;> rfl
  all_goals cases hi

theorem busOperation_of_none {b : BusId} {s : State} (hb : s.buses[b.val]? = none)
    (f : Ctx → Bus → Except Refusal (Bus × Ret)) : busOperation b s f = .refused .noSuchBus := by
  simp only [busOperation, hb]

/-- An operation on a bus is refused because the bus is not there, or by its own effect. -/
theorem busOperation_refused {b : BusId} {s : State} {f : Ctx → Bus → Except Refusal (Bus × Ret)} {e : Refusal}
    (h : busOperation b s f = .refused e) :
    e = .noSuchBus ∨ ∃ bus, s.buses[b.val]? = some bus ∧ (f (ctxOf s b) bus).map Prod.fst = .error e := by
  cases hb : s.buses[b.val]? with
  | none => rw [busOperation_of_none hb] at h; cases h; exact .inl rfl
  | some bus =>
    refine .inr ⟨bus, rfl, ?_⟩
    cases hf : f (ctxOf s b) bus with
    | error e' => rw [busOperation_of_error hb hf] at h; cases h; rfl
    | ok p => rw [busOperation_of_ok hb hf] at h; cases h

/-! ## What a completed step leaves in place -/

section
variable {i : Instr} {s t : State} (h : exec i s = .next t)
include h

/-- Parameters, clock, schedule and the number of buses are no step's business. -/
theorem exec_frame : t.cfg = s.cfg ∧ t.now = s.now ∧ t.input = s.input ∧ t.buses.length = s.buses.length := by
  obtain ⟨_, crc, r, rfl⟩ | ⟨_, _, _, r, _, _, _, rfl, _⟩ := exec_effect h
  · exact ⟨rfl, rfl, rfl, rfl⟩
  · exact ⟨rfl, rfl, rfl, List.length_set⟩

/-- A bus after a step was there before, and is as it was or has gone through the step's effect. -/
theorem exec_bus {b : Nat} {bus' : Bus} (hb' : t.buses[b]? = some bus') :
    ∃ bus, s.buses[b]? = some bus ∧
      (bus' = bus ∨ ∃ a : BusId, busOf i = some a ∧ b = a.val ∧ busEffect (ctxOf s a) bus i = .ok bus') := by
  obtain ⟨_, crc, r, rfl⟩ | ⟨a, old, new, r, ha, hold, heffect, rfl, _⟩ := exec_effect h
  · exact ⟨bus', hb', .inl rfl⟩
  · rw [getElem?_set_bus hold] at hb'
    split at hb'
    next hba => cases hb'; exact ⟨old, hba ▸ hold, .inr ⟨a, ha, hba, heffect⟩⟩
    next => exact ⟨bus', hb', .inl rfl⟩

end

end Sys2Proof.Machine

namespace Sys2Proof.Proofs
open Sys2Proof.Machine

/-- Settles O56: a step replaces at most the bus it names. -/
theorem otherBusesAreUntouched : Obligations.OtherBusesAreUntouched := by
  intro i s t b h hother
  obtain ⟨_, crc, r, rfl⟩ | ⟨a, _, _, r, ha, hold, _, rfl, _⟩ := exec_effect h
  · rfl
  · exact (getElem?_set_bus hold).trans (if_neg (hother a ha))

/-- Settles O57: the bus is looked up before anything else. -/
theorem absentBusIsRefused : Obligations.AbsentBusIsRefused := by
  intro i s b hi habsent
  obtain ⟨f, hexec, _⟩ := exec_eq_busOperation hi s
  rw [hexec, busOperation_of_none (List.getElem?_eq_none habsent)]

/-- Settles O58: an event hands nothing back, and neither engine's effect reaches a node. -/
theorem enginesTouchNoNode : Obligations.EnginesTouchNoNode := by
  intro i s t hi h
  obtain ⟨hnone, _⟩ | ⟨_, _, _, r, _, _, _, rfl, hret⟩ := exec_effect h
  · cases i <;> simp [engineStep, busOf] at hi hnone
  · refine ⟨hret hi, rfl, rfl, fun b bus bus' hb hb' => ?_⟩
    obtain ⟨bus0, hb0, rfl | ⟨a, _, _, heffect⟩⟩ := exec_bus h hb' <;> cases hb0.symm.trans hb
    · exact ⟨rfl, rfl⟩
    · obtain ⟨hmain, hsubs, _, _⟩ := engineStep_same hi heffect
      exact ⟨hmain, hsubs⟩

end Sys2Proof.Proofs
end

section
/-! The transmit engine (spec/42_bus_transmitter.md R160, R162; spec/30_encoding.md section 4): settles O25, O26 and O28. First
the bus that TX.START and TX.BIT leave, field by field; then a whole transmission, by induction on the number of bits sent. -/

namespace Sys2Proof.Machine

/-! ## How a shape leaves a line (log entry 17) -/

/-- The drive of a line after a shape: that of the last segment, or what it was when there is none. -/
def driveAfter (line : Segment → Drive) (shape : List Segment) (before : Drive) : Drive :=
  (shape.getLast?.map line).getD before

theorem Transport.driveShape_eq_driveAfter (t : Transport) (shape : List Segment) :
    t.driveShape shape =
      { t with
        driveA := driveAfter Segment.lineA shape t.driveA, driveB := driveAfter Segment.lineB shape t.driveB } := by
  unfold Transport.driveShape driveAfter
  split
  next h => rw [h]; rfl
  next seg h => rw [h]; rfl

/-- The shape of a bit by its line phase and value (R162). -/
theorem bitWave_eq (p : Params) (k : Nat) (v : Bool) :
    bitWave p k v =
      if k % 2 = 0 then (if v then p.bitWave01 else p.bitWave00) else (if v then p.bitWave11 else p.bitWave10) := by
  obtain h | h := Nat.mod_two_eq_zero_or_one k <;> cases v <;> simp [bitWave, h]

/-! ## TX.START (R160) -/

/-- The bus once START is emitted. -/
def Bus.startEmitted (bus : Bus) (p : Params) : Bus :=
  { bus with
    t :=
      { bus.t with
        txPhase := .data
        driveA := driveAfter Segment.lineA p.startSeq bus.t.driveA
        driveB := driveAfter Segment.lineB p.startSeq bus.t.driveB }
    wireTx := bus.wireTx ++ [.start] }

theorem Bus.txStart_of_start {bus : Bus} (c : Ctx) (hp : bus.t.txPhase = .start) :
    bus.txStart c = .ok (bus.startEmitted c.cfg) := by
  rw [Bus.txStart, if_pos hp]
  simp only [Bus.emit, Transport.driveShape_eq_driveAfter]
  rfl

theorem Bus.txStart_of_ne {bus : Bus} (c : Ctx) (hp : bus.t.txPhase ≠ .start) : bus.txStart c = .error .notEnabled :=
  if_neg hp

/-! ## TX.BIT (R162) -/

/-- The bus once the next bit, a bit of `byte`, is emitted. -/
def Bus.bitEmitted (bus : Bus) (p : Params) (byte : Byte) : Bus :=
  { bus with
    t :=
      { bus.t with
        txBit := bus.t.txBit + 1
        txPhase := if bus.t.txBit + 1 = 8 * bus.t.wbLen then .stop else .data
        driveA := driveAfter Segment.lineA (bitWave p bus.t.txBit (frameBit byte bus.t.txBit)) bus.t.driveA
        driveB := driveAfter Segment.lineB (bitWave p bus.t.txBit (frameBit byte bus.t.txBit)) bus.t.driveB }
    wireTx := bus.wireTx ++ [.bit ⟨frameBit byte bus.t.txBit, clockLine p bus.t.txBit⟩] }

section
variable {bus : Bus} (c : Ctx)

theorem Bus.txBit_of_data {byte : Byte} (hp : bus.t.txPhase = .data)
    (hbyte : readCell bus.t.wb (bus.t.txBit / 8) = some byte) : bus.txBit c = .ok (bus.bitEmitted c.cfg byte) := by
  rw [Bus.txBit, if_pos hp]
  simp only [hbyte, Bus.emit, Transport.driveShape_eq_driveAfter]
  rfl

theorem Bus.txBit_of_unwritten (hp : bus.t.txPhase = .data) (hbyte : readCell bus.t.wb (bus.t.txBit / 8) = none) :
    bus.txBit c = .error (.unwritten .wb (bus.t.txBit / 8)) := by
  rw [Bus.txBit, if_pos hp]
  simp only [hbyte]

theorem Bus.txBit_of_ne (hp : bus.t.txPhase ≠ .data) : bus.txBit c = .error .notEnabled :=
  if_neg hp

end

section
variable {s : State} {b : BusId} {bus : Bus} (hb : s.buses[b.val]? = some bus)
include hb

theorem exec_txStart_of_start (hp : bus.t.txPhase = .start) :
    exec (.txStart b) s = .next { s with buses := s.buses.set b.val (bus.startEmitted s.cfg) } := by
  rw [exec_txStart]
  exact busEvent_of_ok hb (Bus.txStart_of_start _ hp)

theorem exec_txBit_of_data {byte : Byte} (hp : bus.t.txPhase = .data)
    (hbyte : readCell bus.t.wb (bus.t.txBit / 8) = some byte) :
    exec (.txBit b) s = .next { s with buses := s.buses.set b.val (bus.bitEmitted s.cfg byte) } := by
  rw [exec_txBit]
  exact busEvent_of_ok hb (Bus.txBit_of_data _ hp hbyte)

end

/-! ## A whole transmission (R159) -/

/-- The symbol of bit `k` of a frame (R98). -/
def frameSymbol (p : Params) (frame : List Byte) (k : Nat) : TxSymbol :=
  .bit ⟨frameBit (frame.getD (k / 8) 0) k, clockLine p k⟩

/-- The bus once START and the first `k` bits of the frame are emitted, its lines driven as said. -/
def Bus.transmitted (bus : Bus) (p : Params) (frame : List Byte) (k : Nat) (dA dB : Drive) : Bus :=
  { bus with
    t :=
      { bus.t with
        txPhase := if k = 8 * frame.length then .stop else .data, txBit := k, driveA := dA, driveB := dB }
    wireTx := bus.wireTx ++ .start :: (List.range k).map (frameSymbol p frame) }

section
variable {bus : Bus} {frame : List Byte} (p : Params)

theorem Bus.startEmitted_eq_transmitted (h0 : bus.t.txBit = 0) (hne : frame ≠ []) :
    ∃ dA dB, bus.startEmitted p = bus.transmitted p frame 0 dA dB := by
  have hlen : ¬ 0 = 8 * frame.length := by have := List.length_pos_iff.2 hne; omega
  refine ⟨(bus.startEmitted p).t.driveA, (bus.startEmitted p).t.driveB, ?_⟩
  rw [Bus.transmitted, if_neg hlen, ← h0]
  simp [Bus.startEmitted, h0]

/-- The next bit of the frame is emitted: one more symbol, and END comes next after the last. -/
theorem Bus.bitEmitted_transmitted (hwb : bus.t.wbLen = frame.length) (k : Nat) (dA dB : Drive) :
    ∃ dA' dB', (bus.transmitted p frame k dA dB).bitEmitted p (frame.getD (k / 8) 0) =
      bus.transmitted p frame (k + 1) dA' dB' := by
  let sent := (bus.transmitted p frame k dA dB).bitEmitted p (frame.getD (k / 8) 0)
  refine ⟨sent.t.driveA, sent.t.driveB, ?_⟩
  simp [sent, Bus.bitEmitted, Bus.transmitted, hwb, List.range_succ, frameSymbol]

end

section
variable {s : State} {b : BusId} {bus : Bus} {frame : List Byte} (hb : s.buses[b.val]? = some bus)
  (hwb : bus.t.wbLen = frame.length) (hcells : ∀ a, a < frame.length → readCell bus.t.wb a = frame[a]?)
include hb hwb hcells

theorem exec_txBit_transmitted {k : Nat} (hk : k < 8 * frame.length) (dA dB : Drive) :
    ∃ dA' dB',
      exec (.txBit b) { s with buses := s.buses.set b.val (bus.transmitted s.cfg frame k dA dB) } =
        .next { s with buses := s.buses.set b.val (bus.transmitted s.cfg frame (k + 1) dA' dB') } := by
  have hbyte : k / 8 < frame.length := by omega
  have hread : readCell (bus.transmitted s.cfg frame k dA dB).t.wb (k / 8) = some (frame.getD (k / 8) 0) := by
    rw [List.getD_eq_getElem?_getD, List.getElem?_eq_getElem hbyte, Option.getD_some, ← List.getElem?_eq_getElem hbyte]
    exact hcells _ hbyte
  obtain ⟨dA', dB', heq⟩ := Bus.bitEmitted_transmitted s.cfg hwb k dA dB
  refine ⟨dA', dB', ?_⟩
  rw [exec_txBit_of_data (getElem?_set_bus_same hb) (if_neg hk.ne) hread, List.set_set]
  exact congrArg (fun bus' => Host.Outcome.next { s with buses := s.buses.set b.val bus' }) heq

/-- Every number of bits up to the whole frame is sent by as many TX.BIT. -/
theorem execAll_txBit_transmitted {k : Nat} (hk : k ≤ 8 * frame.length) (dA dB : Drive) :
    ∃ dA' dB',
      execAll (List.replicate k (.txBit b)) { s with buses := s.buses.set b.val (bus.transmitted s.cfg frame 0 dA dB) } =
        .next { s with buses := s.buses.set b.val (bus.transmitted s.cfg frame k dA' dB') } := by
  induction k with
  | zero => exact ⟨dA, dB, rfl⟩
  | succ k ih =>
    obtain ⟨dA1, dB1, hsent⟩ := ih (Nat.le_of_succ_le hk)
    obtain ⟨dA2, dB2, hnext⟩ := exec_txBit_transmitted hb hwb hcells hk dA1 dB1
    refine ⟨dA2, dB2, ?_⟩
    rw [List.replicate_succ', execAll_append_of_next hsent, execAll_cons_of_next hnext, execAll_nil]

end

end Sys2Proof.Machine

namespace Sys2Proof.Proofs
open Sys2Proof.Machine

/-- Settles O25: the drives after START are those after its shape, an empty shape leaving them. -/
theorem txStartEmitsStart : Obligations.TxStartEmitsStart := by
  intro s b bus hb
  refine ⟨rfl, fun hp hshape => ?_, fun hp seg hshape => ?_⟩ <;> rw [exec_txStart_of_start hb hp, Bus.startEmitted]
  · simp only [driveAfter, hshape]
    rfl
  · simp only [driveAfter, hshape]
    rfl

/-- Settles O26: the bit, its line and its shape are those of `Bus.bitEmitted`. -/
theorem txBitEmitsTheNextBit : Obligations.TxBitEmitsTheNextBit := by
  rintro s b bus byte _ _ hb
  refine ⟨rfl, ?_⟩
  rintro hp hbyte rfl rfl
  rw [exec_txBit_of_data hb hp hbyte, Bus.bitEmitted, bitWave_eq]
  rfl

/-- Settles O28: TX.START leaves no bit sent, and then every TX.BIT sends one more. -/
theorem transmissionEmitsTheFrame : Obligations.TransmissionEmitsTheFrame := by
  intro s b bus frame hb hp h0 hne hwb hcells
  obtain ⟨dA, dB, hstart⟩ := Bus.startEmitted_eq_transmitted s.cfg h0 hne
  obtain ⟨dA', dB', hbits⟩ := execAll_txBit_transmitted hb hwb hcells le_rfl dA dB
  refine ⟨dA', dB', ?_⟩
  rw [execAll_cons_of_next (exec_txStart_of_start hb hp), hstart, hbits, Bus.transmitted, if_pos rfl]
  rfl

end Sys2Proof.Proofs
end

section
/-! What a step can do to the transport of its bus, said once: the relation `TransportEffect`, one constructor for each way the
transport changes. The invariants of the transport, the snapshot's single writer and the host address go through it. -/

namespace Sys2Proof.Machine

/-- The end of the write phase (R210): reception is armed at `tc` if a response is expected. -/
def Transport.endWrite (t : Transport) (tc : Nat) : Transport :=
  if t.expectResponse then ({ t with writeBusy := false } : Transport).arm tc else { t with writeBusy := false }

/-- The transmit engine at rest with both lines released (R164). -/
def Transport.restTx (t : Transport) : Transport :=
  { t with txPhase := .idle, driveA := .release, driveB := .release }

/-- The read phase over and the receive engine off (R182, R212). -/
def Transport.endRead (t : Transport) (bad : Bool) : Transport :=
  { t with rxBad := bad, rxPhase := .off, readBusy := false }

/-- The transport is as it was, or a parsed frame has been published (R212). -/
def MayPublish (c : Ctx) (t t' : Transport) : Prop :=
  t' = t ∨ ∃ bytes n p, n ≤ bytes.length ∧ parseFrame c.cfg.hdrLayout bytes n = some p ∧ t' = t.publish p

/-- What a step can do to the transport. -/
inductive TransportEffect (c : Ctx) (i : Instr) (t : Transport) : Transport → Prop
  | written {t'} (h : MayAccept c t t') : TransportEffect c i t t'
  | fetched {t'} (h : MayAccept c { t with lvNew := false } t') : TransportEffect c i t t'
  | writeTimedOut (hw : t.writeBusy = true) : TransportEffect c i t t.abortWrite
  | readTimedOut (hr : t.readBusy = true) : TransportEffect c i t t.abortRead
  | startSent (dA dB : Drive) (hp : t.txPhase = .start) :
    TransportEffect c i t { t with txPhase := .data, driveA := dA, driveB := dB }
  | bitSent (dA dB : Drive) (hp : t.txPhase = .data) :
    TransportEffect c i t
      { t with
        txBit := t.txBit + 1, txPhase := if t.txBit + 1 = 8 * t.wbLen then .stop else .data
        driveA := dA, driveB := dB }
  | writeCompleted (tc : Nat) (hw : t.writeBusy = true) (hp : t.txPhase = .idle) :
    TransportEffect c i t (t.endWrite tc)
  | endSent (tc : Nat) (hw : t.writeBusy = true) (hp : t.txPhase = .stop) :
    TransportEffect c i t (t.restTx.endWrite tc)
  | startReceived (hp : t.rxPhase = .waitStart) : TransportEffect c i t { t with rxPhase := .data }
  | bitReceived (v : Bool) (hp : t.rxPhase = .data) : TransportEffect c i t (t.shiftIn v)
  | killed (hp : t.rxPhase = .data) : TransportEffect c i t t.kill
  | readEnded {t'} (bad : Bool) (hi : (∃ b, i = .rxEnd b) ∨ ∃ b n, i = .rxComplete b n) (hr : t.readBusy = true)
    (h : MayPublish c (t.endRead bad) t') : TransportEffect c i t t'

/-! ## The completion events -/

section
variable {c : Ctx} {bus bus' : Bus}

theorem Bus.takeTxComplete_t (h : bus.takeTxComplete c = .ok bus') :
    bus.t.writeBusy = true ∧ bus.t.txPhase = .idle ∧ bus'.t = bus.t.endWrite (bus.instant c.now) := by
  obtain ⟨⟨hw, hp⟩, ⟨he, rfl⟩ | ⟨he, rfl⟩⟩ := Bus.takeTxComplete_ok h
  · exact ⟨hw, hp, (if_pos he).symm⟩
  · exact ⟨hw, hp, (if_neg (Bool.eq_false_iff.1 he)).symm⟩

theorem Bus.judge_mayPublish (c : Ctx) (bus : Bus) {bytes : List Byte} {n : Nat} (hn : n ≤ bytes.length) :
    MayPublish c bus.t (bus.judge c bytes n).t := by
  obtain h | h | ⟨p, _, hp, h⟩ := bus.judge_cases c bytes n <;> rw [h]
  · exact .inl rfl
  · exact .inl rfl
  · exact .inr ⟨bytes, n, p, hn, hp, rfl⟩

theorem Bus.takeRxComplete_t {n : Nat} (h : bus.takeRxComplete c n = .ok bus') :
    bus.t.readBusy = true ∧ MayPublish c (bus.t.endRead bus.t.rxBad) bus'.t := by
  obtain ⟨⟨hr, hp, _⟩, ⟨_, rfl⟩ | ⟨_, _, bytes, hbytes, rfl⟩⟩ := Bus.takeRxComplete_ok h <;>
    refine ⟨hr, ?_⟩ <;>
    rw [show bus.t.endRead bus.t.rxBad = { bus.t with readBusy := false } by rw [Transport.endRead, ← hp]]
  · exact .inl rfl
  · exact Bus.judge_mayPublish c _ ((readCells_ok_iff _ _ _ _).1 hbytes).1.ge

end

/-! ## Every effect of a step -/

/-- A receiver's micro-step leaves the transport or has its own effect in its phase. -/
theorem TransportEffect.of_onSymbol {c : Ctx} {i : Instr} {bus bus' : Bus} {phase : RxPhase}
    {f : Bus → Except Refusal Bus} (h : bus.onSymbol phase f = .ok bus')
    (hf : bus.t.rxPhase = phase → f bus = .ok bus' → TransportEffect c i bus.t bus'.t) :
    TransportEffect c i bus.t bus'.t := by
  obtain ⟨_, rfl⟩ | ⟨_, _, hphase, hok⟩ := Bus.onSymbol_ok h
  · exact .written (.refl ..)
  · exact hf hphase hok

theorem Bus.processEvents_effect (c : Ctx) (i : Instr) (bus : Bus) (currentTime : Nat) :
    TransportEffect c i bus.t (bus.processEvents currentTime).t := by
  unfold Bus.processEvents
  split
  next h => exact .writeTimedOut (Bool.and_eq_true_iff.1 h).1
  next =>
    split
    next h => exact .readTimedOut (Bool.and_eq_true_iff.1 h).1
    next => exact .written (.refl ..)

theorem Bus.txStart_effect {c : Ctx} {i : Instr} {bus bus' : Bus} (h : bus.txStart c = .ok bus') :
    TransportEffect c i bus.t bus'.t := by
  by_cases hp : bus.t.txPhase = .start
  · cases (Bus.txStart_of_start c hp).symm.trans h
    exact .startSent _ _ hp
  · cases (Bus.txStart_of_ne c hp).symm.trans h

theorem Bus.txBit_effect {c : Ctx} {i : Instr} {bus bus' : Bus} (h : bus.txBit c = .ok bus') :
    TransportEffect c i bus.t bus'.t := by
  by_cases hp : bus.t.txPhase = .data
  · cases hbyte : readCell bus.t.wb (bus.t.txBit / 8) with
    | none => cases (Bus.txBit_of_unwritten c hp hbyte).symm.trans h
    | some byte =>
      cases (Bus.txBit_of_data c hp hbyte).symm.trans h
      exact .bitSent _ _ hp
  · cases (Bus.txBit_of_ne c hp).symm.trans h

theorem Bus.txEnd_effect {c : Ctx} {i : Instr} {bus bus' : Bus} (h : bus.txEnd c = .ok bus') :
    TransportEffect c i bus.t bus'.t := by
  by_cases hp : bus.t.txPhase = .stop
  · rw [Bus.txEnd_of_stop c hp] at h
    obtain ⟨hw, _, ht⟩ := Bus.takeTxComplete_t h
    rw [ht]
    exact .endSent _ hw hp
  · rw [Bus.txEnd, if_neg hp] at h
    cases h

/-- Every step's effect on the transport of its bus is one of `TransportEffect`. -/
theorem busEffect_transport {c : Ctx} {i : Instr} {bus bus' : Bus} (h : busEffect c bus i = .ok bus') :
    TransportEffect c i bus.t bus'.t := by
  have same : ∀ {t}, t = bus.t → TransportEffect c i bus.t t := fun ht => ht ▸ .written (.refl ..)
  cases i with
  | write =>
    simp only [busEffect] at h
    split at h <;> cases h
    next hlen => exact .written (bus.write_mayAccept c _ _ _ _ _ _ (Nat.not_lt.1 hlen))
  | getReadData =>
    obtain ⟨⟨_, words, length, isNew⟩, hread, rfl⟩ := exists_ok_of_map_eq_ok h
    obtain ⟨_, _, _, rfl⟩ := Bus.getReadData_ok hread
    exact .fetched (.refl ..)
  | processEvents => cases h; exact bus.processEvents_effect ..
  | nodeHandleData =>
    simp only [busEffect] at h
    split at h <;> cases h
    exact same (Bus.handleData_t ..)
  | nodeTask b id currentTime =>
    have hmay := Bus.task_mayAccept h
    split at hmay
    · exact .fetched hmay
    · exact .written hmay
  | nodeSetConnected => cases h; exact same (Bus.setConnected_t ..)
  | nodeMainPeripheralDisconnected =>
    simp only [busEffect] at h
    split at h <;> cases h
    exact same rfl
  | mainDispatch =>
    simp only [busEffect] at h
    split_ifs at h
    obtain ⟨⟨_, handled⟩, hdispatch, rfl⟩ := exists_ok_of_map_eq_ok h
    exact same (Bus.dispatch_t hdispatch)
  | pollerTick =>
    simp only [busEffect] at h
    split at h <;> cases h
    exact .written (bus.tick_mayAccept ..)
  | pollerAttach => cases h; exact same (Bus.updNode_t ..)
  | pollerDetach => cases h; exact same (Bus.updNode_t ..)
  | txComplete =>
    obtain ⟨hw, hp, ht⟩ := Bus.takeTxComplete_t h
    rw [ht]
    exact .writeCompleted _ hw hp
  | rxComplete b n =>
    obtain ⟨hr, hpub⟩ := Bus.takeRxComplete_t h
    exact .readEnded _ (.inr ⟨b, n, rfl⟩) hr hpub
  | txStart => exact Bus.txStart_effect h
  | txBit => exact Bus.txBit_effect h
  | txEnd => exact Bus.txEnd_effect h
  | rxWaitStart =>
    simp only [busEffect, Bus.rxWaitStart] at h
    refine .of_onSymbol h fun hp hf => ?_
    split at hf <;> cases hf
    · exact .startReceived hp
    · exact same rfl
  | rxBit =>
    simp only [busEffect, Bus.rxBit] at h
    refine .of_onSymbol h fun hp hf => ?_
    cases hf
    dsimp only
    split
    · exact .bitReceived _ hp
    · exact .killed hp
  | rxEnd b =>
    simp only [busEffect, Bus.rxEnd] at h
    refine .of_onSymbol h fun hp hf => ?_
    obtain ⟨hr, hpub⟩ := Bus.takeRxComplete_t hf
    exact .readEnded _ (.inl ⟨b, rfl⟩) hr hpub
  | rxBad =>
    simp only [busEffect, Bus.rxBad] at h
    refine .of_onSymbol h fun hp hf => ?_
    cases hf
    exact .killed hp
  | _ => cases h; exact same rfl

end Sys2Proof.Machine
end

section
/-! The state invariant (spec/10_state.md, spec/20_memory.md section 1): settles O50 and O55. `TransportInv` is kept by each way
the transport changes; the nodes' part is `BusKeeps`. -/

namespace Sys2Proof.Machine

/-! ## The buffers (R25 to R27, R60) -/

theorem Written.of_readCells {α : Type} {m : List (Nat × α)} {n : Nat} (h : Written m n) :
    ∃ vs, readCells m 0 n = .ok vs :=
  readCells_of_written m n 0 (by simpa [Written] using h)

/-- The elements just written from index 0 on are written. -/
theorem written_writeCells {α : Type} (m : List (Nat × α)) (vs : List α) : Written (writeCells m 0 vs) vs.length := by
  intro a ha
  rw [readCell_writeCells, if_pos ⟨Nat.zero_le a, by omega⟩, Nat.sub_zero, List.getElem?_eq_getElem ha]
  rfl

/-- One element more is written after the written ones. -/
theorem Written.writeCell {α : Type} {m : List (Nat × α)} {n : Nat} (h : Written m n) (v : α) :
    Written (writeCell m n v) (n + 1) := by
  intro a ha
  rw [readCell_writeCell]
  split
  · rfl
  · exact h a (by omega)

namespace TransportInv
variable {t : Transport} (h : TransportInv t)
include h

theorem memory_wf : Memory.wf t = true :=
  Memory.wf_iff.2 ⟨h.wb_wf, h.rb_wf, h.lv_wf⟩

/-- An accepted WRITE fills the write buffer of a free bus (R204). -/
theorem accept {p : Params} {t1 : Nat} {cmd rcp : Byte} {pl : List Word} {len : Byte} {e : Bool} {rt : Word}
    (hfree : t.busy = false) (hl : len.toNat ≤ pl.length) : TransportInv (t.accept p t1 cmd rcp pl len e rt) := by
  obtain ⟨hwb_wf, _, _⟩ := Memory.wf_iff.1 (Memory.wf_accept (t1 := t1) (cmd := cmd) (rcp := rcp) (e := e) (rt := rt)
    (p := p) hl h.memory_wf)
  obtain ⟨_, hread⟩ := Bool.or_eq_false_iff.1 hfree
  have hwritten := written_writeCells t.wb (frameBytes p.hdrLayout cmd t.hostAddr rcp pl len)
  rw [length_frameBytes _ _ _ _ _ _ hl] at hwritten
  exact { h with
    wb_wf := hwb_wf
    wbLen_le := frameSize_le_bufBytes len
    wb_written := hwritten
    one_busy := fun hboth => Bool.eq_false_iff.1 hread hboth.2 }

/-- Arming the receiver empties the read buffer once the write phase is over (R210). -/
theorem endWrite (tc : Nat) : TransportInv (t.endWrite tc) := by
  unfold Transport.endWrite
  split
  · exact { h with
      rbCount_le := Nat.zero_le _
      rb_written := fun a ha => absurd ha (Nat.not_lt_zero a)
      running_crc := fun bytes hbytes => by cases hbytes; rfl
      one_busy := nofun }
  · exact { h with one_busy := nofun }

theorem restTx : TransportInv t.restTx := { h with }

theorem endRead (bad : Bool) : TransportInv (t.endRead bad) := { h with one_busy := nofun }

/-- A stored byte extends the read buffer and the running CRC alike (R179, R188). -/
theorem storeByte (byte : Byte) : TransportInv (t.storeByte byte) := by
  unfold Transport.storeByte
  split
  next hroom =>
    obtain ⟨old, hold⟩ := h.rb_written.of_readCells
    exact { h with
      rb_wf := cellsWf_writeCell _ _ _ h.rb_wf hroom
      rbCount_le := hroom
      rb_written := h.rb_written.writeCell byte
      running_crc := fun bytes hbytes => by
        cases (readCells_writeCell_end t.rb t.rbCount byte old hold).symm.trans hbytes
        rw [List.foldl_append, ← h.running_crc old hold]
        rfl }
  next => exact { h with }

theorem shiftIn (v : Bool) : TransportInv (t.shiftIn v) := by
  unfold Transport.shiftIn
  dsimp only
  split
  · exact storeByte (t := { t with rxShift := t.rxShift.shiftConcat v }) { h with } _
  · exact { h with }

/-- A published frame is a snapshot of at least its header word (R212). -/
theorem publish {layout : HdrLayout} {bytes : List Byte} {n : Nat} {p : ParsedFrame} (hn : n ≤ bytes.length)
    (hp : parseFrame layout bytes n = some p) : TransportInv (t.publish p) := by
  obtain ⟨_, _, hlv_wf⟩ := Memory.wf_iff.1 (Memory.wf_publish hn hp h.memory_wf)
  have hwritten := written_writeCells t.lv p.words
  rw [length_words_of_parseFrame hn hp] at hwritten
  have hlen := p.length.isLt
  exact { h with
    lv_wf := hlv_wf
    lvLen_le := show 1 + p.length.toNat ≤ 256 by omega
    lv_written := hwritten
    new_frame := fun _ => show 0 < 1 + p.length.toNat by omega }

theorem mayAccept {c : Ctx} {t' : Transport} (hmay : MayAccept c t t') : TransportInv t' := by
  obtain rfl | ⟨hfree, _, _, _, _, _, _, _, hl, rfl⟩ := hmay
  · exact h
  · exact h.accept hfree hl

theorem mayPublish {c : Ctx} {t' : Transport} (hmay : MayPublish c t t') : TransportInv t' := by
  obtain rfl | ⟨bytes, n, p, hn, hp, rfl⟩ := hmay
  · exact h
  · exact h.publish hn hp

/-- Every effect keeps the invariant of the transport. -/
theorem effect {c : Ctx} {i : Instr} {t' : Transport} (heffect : TransportEffect c i t t') : TransportInv t' := by
  cases heffect with
  | written hmay => exact h.mayAccept hmay
  | fetched hmay => exact mayAccept (t := { t with lvNew := false }) { h with new_frame := nofun } hmay
  | writeTimedOut => exact { h with one_busy := nofun }
  | readTimedOut => exact { h with one_busy := nofun }
  | startSent => exact { h with }
  | bitSent => exact { h with }
  | writeCompleted tc => exact h.endWrite tc
  | endSent tc => exact h.restTx.endWrite tc
  | startReceived => exact { h with }
  | bitReceived v => exact h.shiftIn v
  | killed => exact { h with }
  | readEnded bad _ _ hmay => exact (h.endRead bad).mayPublish hmay

end TransportInv

/-! ## The host address (R24) -/

theorem MayAccept.hostAddr {c : Ctx} {t t' : Transport} (h : MayAccept c t t') : t'.hostAddr = t.hostAddr := by
  obtain rfl | ⟨_, _, _, _, _, _, _, _, _, rfl⟩ := h <;> rfl

theorem Transport.endWrite_hostAddr (t : Transport) (tc : Nat) : (t.endWrite tc).hostAddr = t.hostAddr := by
  unfold Transport.endWrite; split <;> rfl

theorem Transport.shiftIn_hostAddr (t : Transport) (v : Bool) : (t.shiftIn v).hostAddr = t.hostAddr := by
  unfold Transport.shiftIn Transport.storeByte; dsimp only; split_ifs <;> rfl

theorem TransportEffect.hostAddr {c : Ctx} {i : Instr} {t t' : Transport} (h : TransportEffect c i t t') :
    t'.hostAddr = t.hostAddr := by
  cases h with
  | written hmay => exact hmay.hostAddr
  | fetched hmay => exact hmay.hostAddr
  | writeCompleted tc => exact t.endWrite_hostAddr tc
  | endSent tc => exact t.restTx.endWrite_hostAddr tc
  | bitReceived v => exact t.shiftIn_hostAddr v
  | readEnded bad _ _ hmay => obtain rfl | ⟨_, _, _, _, _, rfl⟩ := hmay <;> rfl
  | _ => rfl

/-! ## Every step -/

/-- A bus keeps its invariant through every effect. -/
theorem BusInv.effect {c : Ctx} {i : Instr} {b : Nat} {bus bus' : Bus} (h : BusInv c.cfg b bus)
    (heffect : busEffect c bus i = .ok bus') : BusInv c.cfg b bus' where
  transport := h.transport.effect (busEffect_transport heffect)
  host_addr := (busEffect_transport heffect).hostAddr.trans h.host_addr
  poller id := ((busEffect_keeps heffect).node id).poller (h.poller id)
  addr id := ((busEffect_keeps heffect).node id).addr.trans (h.addr id)

theorem exec_stateInv {i : Instr} {s t : State} (hs : StateInv s) (h : exec i s = .next t) : StateInv t := by
  obtain ⟨hcfg, _, _, hlen⟩ := exec_frame h
  refine ⟨by rw [hlen, hcfg, hs.bus_count], fun b bus' hb' => ?_⟩
  obtain ⟨bus, hb, rfl | ⟨a, _, _, heffect⟩⟩ := exec_bus h hb' <;> rw [hcfg]
  · exact hs.bus b _ hb
  · exact BusInv.effect (c := ctxOf s a) (hs.bus b bus hb) heffect

/-- A step of the machine does nothing, or runs a step on the state without the front entry of the schedule. -/
theorem step_next {s t : State} (h : step s = .next t) :
    t = s ∨ ∃ i e rest, exec i (s.takeEntry e rest) = .next t := by
  unfold step at h
  split at h
  · cases h; exact .inl rfl
  next e rest _ =>
    split at h
    · cases h
    next i _ => exact .inr ⟨i, e, rest, h⟩

theorem StateInv.takeEntry {s : State} (h : StateInv s) (e : Pending) (rest : List Pending) :
    StateInv (s.takeEntry e rest) :=
  ⟨h.bus_count, h.bus⟩

/-- What is constant on a bus (R20, R24, R32), and its window's end, which only moves on. -/
structure SameIdentity (bus bus' : Bus) : Prop where
  hostAddr : bus'.t.hostAddr = bus.t.hostAddr
  addr : ∀ id, (bus'.node id).addr = (bus.node id).addr
  env : bus'.env = bus.env
  windowEnd : bus.windowEnd ≤ bus'.windowEnd

theorem SameIdentity.refl (bus : Bus) : SameIdentity bus bus := ⟨rfl, fun _ => rfl, rfl, le_rfl⟩

theorem exec_sameIdentity {i : Instr} {s t : State} (h : exec i s = .next t) {b : Nat} {bus bus' : Bus}
    (hb : s.buses[b]? = some bus) (hb' : t.buses[b]? = some bus') : SameIdentity bus bus' := by
  obtain ⟨bus0, hb0, rfl | ⟨_, _, _, heffect⟩⟩ := exec_bus h hb' <;> cases hb0.symm.trans hb
  · exact .refl _
  · have hkeeps := busEffect_keeps heffect
    exact ⟨(busEffect_transport heffect).hostAddr, fun id => (hkeeps.node id).addr, hkeeps.env, hkeeps.windowEnd⟩

end Sys2Proof.Machine

namespace Sys2Proof.Proofs
open Sys2Proof.Machine

/-- Settles O50: the step that is run keeps the invariant on its bus and does not see the others. -/
theorem everyStepKeepsTheStateInvariant : Obligations.EveryStepKeepsTheStateInvariant := by
  intro s t hs h
  obtain rfl | ⟨i, e, rest, hexec⟩ := step_next h
  · exact hs
  · exact exec_stateInv (hs.takeEntry e rest) hexec

/-- Settles O55: the clock moves only when an entry is taken, and no effect on a bus reaches its identities. -/
theorem parametersAndIdentitiesPersist : Obligations.ParametersAndIdentitiesPersist := by
  intro s t h
  have of_same : ∀ bus bus', SameIdentity bus bus' → bus'.t.hostAddr = bus.t.hostAddr ∧
      (∀ id, (bus'.node id).addr = (bus.node id).addr) ∧ bus'.env = bus.env ∧ bus.windowEnd ≤ bus'.windowEnd :=
    fun _ _ ⟨hhost, haddr, henv, hwin⟩ => ⟨hhost, haddr, henv, hwin⟩
  obtain rfl | ⟨i, e, rest, hexec⟩ := step_next h
  · refine ⟨rfl, le_rfl, rfl, fun b bus bus' hb hb' => ?_⟩
    cases hb.symm.trans hb'
    exact of_same _ _ (.refl _)
  · obtain ⟨hcfg, hnow, _, hlen⟩ := exec_frame hexec
    refine ⟨hcfg, ?_, hlen, fun b bus bus' hb hb' => of_same _ _ (exec_sameIdentity hexec hb hb')⟩
    rw [hnow]
    exact le_max_left ..

end Sys2Proof.Proofs
end

section
/-! The engines and the busy flags (spec/42_bus_transmitter.md section 2, spec/44_bus_transport.md, spec/60_exceptions.md
section 3): settles O51 and O59, each by the ways the transport changes. -/

namespace Sys2Proof.Machine

namespace EngineInv
variable {t : Transport} (h : EngineInv t)
include h

/-! ## What the invariant says of a phase -/

theorem writeBusy_of_phase {phase : TxPhase} (hp : t.txPhase = phase) (hne : phase ≠ .idle) : t.writeBusy = true :=
  h.tx_busy.1 (hp ▸ hne)

theorem readBusy_of_phase {phase : RxPhase} (hp : t.rxPhase = phase) (hne : phase ≠ .off) : t.readBusy = true :=
  h.rx_busy.1 (hp ▸ hne)

/-! ## Each way the transport changes -/

/-- An accepted WRITE starts the transmitter of a free bus, before START, on a frame of at least five bytes. -/
theorem accept {p : Params} {t1 : Nat} {cmd rcp : Byte} {pl : List Word} {len : Byte} {e : Bool} {rt : Word}
    (hfree : t.busy = false) : EngineInv (t.accept p t1 cmd rcp pl len e rt) := by
  obtain ⟨_, hread⟩ := Bool.or_eq_false_iff.1 hfree
  exact
    { one_busy := fun hboth => Bool.eq_false_iff.1 hread hboth.2
      tx_busy := iff_of_true nofun rfl
      rx_busy := h.rx_busy
      released := nofun
      frame_size := fun _ => show 5 ≤ 4 * (1 + len.toNat) + 1 by omega
      at_start := fun _ => rfl
      in_data := nofun
      at_stop := nofun }

theorem mayAccept {c : Ctx} {t' : Transport} (hmay : MayAccept c t t') : EngineInv t' := by
  obtain rfl | ⟨hfree, _, _, _, _, _, _, _, _, rfl⟩ := hmay
  · exact h
  · exact h.accept hfree

/-- The transmitter stopped and its flag cleared, nothing else touched (R167). -/
theorem abortWrite : EngineInv t.abortWrite :=
  { one_busy := nofun
    tx_busy := iff_of_false (· rfl) nofun
    rx_busy := h.rx_busy
    released := fun _ => ⟨rfl, rfl⟩
    frame_size := nofun
    at_start := nofun
    in_data := nofun
    at_stop := nofun }

/-- The receiver stopped and its flag cleared, nothing else touched (R182, R186). -/
theorem endRead (bad : Bool) : EngineInv (t.endRead bad) :=
  { h with one_busy := nofun, rx_busy := iff_of_false (· rfl) nofun }

theorem abortRead : EngineInv t.abortRead := { h.endRead t.rxBad with }

theorem startSent (dA dB : Drive) (hp : t.txPhase = .start) :
    EngineInv { t with txPhase := .data, driveA := dA, driveB := dB } := by
  have hw := h.writeBusy_of_phase hp nofun
  exact { h with
    tx_busy := iff_of_true nofun hw
    released := nofun
    at_start := nofun
    in_data := fun _ => by
      have := h.frame_size hw
      show t.txBit < 8 * t.wbLen
      rw [h.at_start hp]
      omega
    at_stop := nofun }

/-- After a bit the transmitter is at the end of the frame or still inside it. -/
theorem bitSent (dA dB : Drive) (hp : t.txPhase = .data) :
    EngineInv
      { t with
        txBit := t.txBit + 1, txPhase := if t.txBit + 1 = 8 * t.wbLen then .stop else .data
        driveA := dA, driveB := dB } := by
  have hw := h.writeBusy_of_phase hp nofun
  have hbit := h.in_data hp
  split
  next hlast =>
    exact { h with
      tx_busy := iff_of_true nofun hw, released := nofun, at_start := nofun, in_data := nofun
      at_stop := fun _ => hlast }
  next hmore =>
    exact { h with
      tx_busy := iff_of_true nofun hw, released := nofun, at_start := nofun
      in_data := fun _ => lt_of_le_of_ne hbit hmore
      at_stop := nofun }

/-- END ends the write phase with the transmitter, and may start the read phase with the receiver (R164, R210). -/
theorem endSent (tc : Nat) : EngineInv (t.restTx.endWrite tc) := by
  unfold Transport.endWrite
  split
  · exact { h.abortWrite with one_busy := nofun, rx_busy := iff_of_true nofun rfl }
  · exact { h.abortWrite with }

theorem storeByte (byte : Byte) : EngineInv (t.storeByte byte) := by
  unfold Transport.storeByte
  split <;> exact { h with }

theorem shiftIn (v : Bool) : EngineInv (t.shiftIn v) := by
  unfold Transport.shiftIn
  dsimp only
  split
  · exact storeByte (t := { t with rxShift := t.rxShift.shiftConcat v }) { h with } _
  · exact { h with }

/-- The receiver in another of its active phases. -/
theorem rxActive {phase phase' : RxPhase} (hp : t.rxPhase = phase) (hne : phase ≠ .off) (hne' : phase' ≠ .off) :
    EngineInv { t with rxPhase := phase' } :=
  { h with rx_busy := iff_of_true hne' (h.readBusy_of_phase hp hne) }

theorem mayPublish {c : Ctx} {t' : Transport} (hmay : MayPublish c t t') : EngineInv t' := by
  obtain rfl | ⟨_, _, _, _, _, rfl⟩ := hmay
  · exact h
  · exact { h with }

/-- Every effect keeps the engines and the busy flags in agreement. -/
theorem effect {c : Ctx} {i : Instr} {t' : Transport} (heffect : TransportEffect c i t t') : EngineInv t' := by
  cases heffect with
  | written hmay => exact h.mayAccept hmay
  | fetched hmay => exact mayAccept (t := { t with lvNew := false }) { h with } hmay
  | writeTimedOut => exact h.abortWrite
  | readTimedOut => exact h.abortRead
  | startSent dA dB hp => exact h.startSent dA dB hp
  | bitSent dA dB hp => exact h.bitSent dA dB hp
  | writeCompleted _ hw hp => exact absurd hp (h.tx_busy.2 hw)
  | endSent tc => exact h.endSent tc
  | startReceived hp => exact h.rxActive hp nofun nofun
  | bitReceived v => exact h.shiftIn v
  | killed hp => exact h.rxActive hp nofun nofun
  | readEnded bad _ _ hmay => exact (h.endRead bad).mayPublish hmay

end EngineInv

/-! ## The snapshot (R72, R300) -/

/-- The words of the snapshot and their number are as before, and the flag is not set anew. -/
structure SameSnapshot (t t' : Transport) : Prop where
  lv : t'.lv = t.lv
  lvLen : t'.lvLen = t.lvLen
  lvNew : t'.lvNew = true → t.lvNew = true

theorem SameSnapshot.refl (t : Transport) : SameSnapshot t t := ⟨rfl, rfl, id⟩

theorem MayAccept.sameSnapshot {c : Ctx} {t t' : Transport} (h : MayAccept c t t') : SameSnapshot t t' := by
  obtain rfl | ⟨_, _, _, _, _, _, _, _, _, rfl⟩ := h <;> exact ⟨rfl, rfl, id⟩

theorem Transport.endWrite_sameSnapshot (t : Transport) (tc : Nat) : SameSnapshot t (t.endWrite tc) := by
  unfold Transport.endWrite; split <;> exact ⟨rfl, rfl, id⟩

theorem Transport.shiftIn_sameSnapshot (t : Transport) (v : Bool) : SameSnapshot t (t.shiftIn v) := by
  unfold Transport.shiftIn Transport.storeByte; dsimp only; split_ifs <;> exact ⟨rfl, rfl, id⟩

/-- Only the end of a reception writes the snapshot. -/
theorem TransportEffect.sameSnapshot {c : Ctx} {i : Instr} {t t' : Transport} (h : TransportEffect c i t t')
    (hend : ∀ b, i ≠ .rxEnd b) (hcomplete : ∀ b n, i ≠ .rxComplete b n) : SameSnapshot t t' := by
  cases h with
  | written hmay => exact hmay.sameSnapshot
  | fetched hmay =>
    obtain ⟨hlv, hlen, hnew⟩ := hmay.sameSnapshot
    exact ⟨hlv, hlen, fun h => absurd (hnew h) nofun⟩
  | writeCompleted tc => exact t.endWrite_sameSnapshot tc
  | endSent tc =>
    obtain ⟨hlv, hlen, hnew⟩ := t.restTx.endWrite_sameSnapshot tc
    exact ⟨hlv, hlen, hnew⟩
  | bitReceived v => exact t.shiftIn_sameSnapshot v
  | readEnded _ hi =>
    obtain ⟨b, rfl⟩ | ⟨b, n, rfl⟩ := hi
    · exact absurd rfl (hend b)
    · exact absurd rfl (hcomplete b n)
  | _ => exact ⟨rfl, rfl, id⟩

end Sys2Proof.Machine

namespace Sys2Proof.Proofs
open Sys2Proof.Machine

/-- Settles O51: the effect on the bus of the step keeps the invariant, and the other buses are as before. -/
theorem everyStepKeepsTheEnginesInvariant : Obligations.EveryStepKeepsTheEnginesInvariant := by
  intro i s t hs h b bus' hb'
  obtain ⟨bus, hb, rfl | ⟨_, _, _, heffect⟩⟩ := exec_bus h hb'
  · exact hs b _ hb
  · exact (hs b bus hb).effect (busEffect_transport heffect)

/-- Settles O59: of all effects only the end of a reception writes the snapshot. -/
theorem onlyRxCompleteWritesTheSnapshot : Obligations.OnlyRxCompleteWritesTheSnapshot := by
  intro i s t h hend hcomplete b bus bus' hb hb'
  suffices hsame : SameSnapshot bus.t bus'.t from ⟨hsame.lv, hsame.lvLen, hsame.lvNew⟩
  obtain ⟨bus0, hb0, rfl | ⟨_, _, _, heffect⟩⟩ := exec_bus h hb' <;> cases hb0.symm.trans hb
  · exact .refl _
  · exact (busEffect_transport heffect).sameSnapshot hend hcomplete

end Sys2Proof.Proofs
end

section
/-! Presence (spec/45_peripheral_node.md, last rule): settles O52, and O53 with it. A poller's bookkeeping changes neither
presence nor attachment; what does is the replacement of one node, NODE.SETCONNECTED(false) and its cascade. -/

namespace Sys2Proof.Machine

/-! ## What leaves presence and attachment alone -/

/-- Every node is present and has a poller exactly if it was and had one. -/
structure SamePresence (bus bus' : Bus) : Prop where
  present : ∀ id, (bus'.node id).present = (bus.node id).present
  attached : ∀ id, (bus'.node id).poller.attached = (bus.node id).poller.attached

theorem SamePresence.refl (bus : Bus) : SamePresence bus bus := ⟨fun _ => rfl, fun _ => rfl⟩

theorem SamePresence.trans {a b c : Bus} (h : SamePresence a b) (h' : SamePresence b c) : SamePresence a c :=
  ⟨fun id => (h'.present id).trans (h.present id), fun id => (h'.attached id).trans (h.attached id)⟩

theorem SamePresence.of_nodes {bus bus' : Bus} (h : ∀ id, bus'.node id = bus.node id) : SamePresence bus bus' :=
  ⟨fun id => by rw [h], fun id => by rw [h]⟩

theorem PresenceInv.of_same {bus bus' : Bus} (h : PresenceInv bus) (hsame : SamePresence bus bus') : PresenceInv bus' where
  attached_present id := by rw [hsame.attached, hsame.present]; exact h.attached_present id
  sub_main i := by
    rw [hsame.present, ← Bus.node_main, hsame.present]
    exact h.sub_main i

section
variable (c : Ctx) (currentTime : Nat) (bus : Bus) (id : NodeId)

theorem Bus.raise_samePresence (label : Cond) : SamePresence bus (bus.raise label) :=
  .of_nodes fun id => bus.node_raise label id

variable {bus id} in
/-- Changing a node without its presence and attachment. -/
theorem Bus.updNode_samePresence {f : Node → Node} (hpresent : (f (bus.node id)).present = (bus.node id).present)
    (hattached : (f (bus.node id)).poller.attached = (bus.node id).poller.attached) :
    SamePresence bus (bus.updNode id f) := by
  constructor <;> intro j <;> rw [Bus.node_updNode] <;> split
  next hj => rw [hj, hpresent]
  next => rfl
  next hj => rw [hj, hattached]
  next => rfl

theorem Bus.write_samePresence (cmd rcp : Byte) (pl : List Word) (len : Byte) (e : Bool) (rt : Word) :
    SamePresence bus (bus.write c cmd rcp pl len e rt).1 :=
  .of_nodes fun id => bus.write_node c cmd rcp pl len e rt id

theorem Bus.poll_samePresence : SamePresence bus (bus.poll c currentTime id) := by
  unfold Bus.poll
  dsimp only
  split
  · exact (bus.write_samePresence ..).trans (Bus.updNode_samePresence rfl rfl)
  · exact bus.write_samePresence ..

theorem Bus.probe_samePresence : SamePresence bus (bus.probe c currentTime id) := by
  unfold Bus.probe
  dsimp only
  split
  · exact (bus.write_samePresence ..).trans (Bus.updNode_samePresence rfl rfl)
  · exact bus.write_samePresence ..

theorem Node.takeData_presence (p : Params) (n : Node) :
    (n.takeData p).present = n.present ∧ (n.takeData p).poller.attached = n.poller.attached := by
  unfold Node.takeData
  dsimp only
  split <;> exact ⟨rfl, rfl⟩

theorem Bus.transition1_samePresence : SamePresence bus (bus.transition1 c id) := by
  have hnode := Node.takeData_presence c.cfg (bus.node id)
  have htake : SamePresence bus (bus.updNode id (Node.takeData c.cfg)) := Bus.updNode_samePresence hnode.1 hnode.2
  unfold Bus.transition1
  dsimp only
  split
  · split
    · exact htake
    · exact htake.trans (Bus.raise_samePresence ..)
  · exact .refl _

theorem Bus.missedPoll_samePresence : SamePresence bus (bus.missedPoll c currentTime id).1 := by
  have hraise := bus.raise_samePresence .missedPoll
  unfold Bus.missedPoll
  dsimp only
  split
  · exact (hraise.trans (Bus.updNode_samePresence rfl rfl)).trans (Bus.raise_samePresence ..)
  · dsimp only
    split
    · exact (hraise.trans (Bus.updNode_samePresence rfl rfl)).trans (Bus.poll_samePresence ..)
    · exact hraise.trans (Bus.updNode_samePresence rfl rfl)

theorem Bus.tick_samePresence : SamePresence bus (bus.tick c currentTime id).1 := by
  refine (bus.transition1_samePresence c id).trans ?_
  rw [Bus.tick, Bus.transition2]
  split
  · split
    · exact Bus.missedPoll_samePresence ..
    · exact Bus.poll_samePresence ..
  · exact .refl _

end

/-! ## What changes them -/

/-- Replacing a node: a poller needs its own presence, a sub-node the main node's, which is not given up. -/
theorem PresenceInv.setNode {bus : Bus} {id : NodeId} {n : Node} (h : PresenceInv bus)
    (hattached : n.poller.attached = true → n.present = true)
    (hsub : ∀ i, id = .sub i → n.present = true → bus.main.present = true)
    (hmain : id = .main → bus.main.present = true → n.present = true) : PresenceInv (bus.setNode id n) where
  attached_present j := by
    rw [Bus.node_setNode]
    split
    · exact hattached
    · exact h.attached_present j
  sub_main j hj := by
    rw [Bus.node_setNode] at hj
    rw [← Bus.node_main, Bus.node_setNode]
    cases id with
    | main => exact hmain rfl (h.sub_main j hj)
    | sub i =>
      rw [if_neg nofun]
      split at hj
      · exact hsub i rfl hj
      · exact h.sub_main j hj

/-- A node that has no poller afterwards, and is present as before, breaks nothing. -/
theorem PresenceInv.detach {bus : Bus} (h : PresenceInv bus) (id : NodeId) : PresenceInv (bus.updNode id Node.detach) := by
  refine h.setNode nofun (fun i hi => ?_) fun hi => ?_ <;> subst hi
  · exact h.sub_main i
  · exact id

theorem Node.setConnected_false_absent (n : Node) :
    (n.setConnected false).present = false ∧ (n.setConnected false).poller.attached = false := by
  rw [Node.setConnected_false]
  split
  next => exact ⟨rfl, rfl⟩
  next h => exact ⟨rfl, Bool.eq_false_iff.2 h⟩

theorem PresenceInv.setConnected_false {bus : Bus} (h : PresenceInv bus) (id : NodeId) :
    PresenceInv (bus.setConnected id false) where
  attached_present j hj := by
    rw [Bus.node_setConnected] at hj ⊢
    split at hj
    · rw [(Node.setConnected_false_absent _).2] at hj; cases hj
    next hother => rw [if_neg hother]; exact h.attached_present j hj
  sub_main j hj := by
    rw [Bus.node_setConnected] at hj
    rw [← Bus.node_main, Bus.node_setConnected]
    split at hj
    · rw [(Node.setConnected_false_absent _).1] at hj; cases hj
    next hother =>
      have hne : ¬ (.main = id ∨ (id = .main ∧ false = false)) :=
        fun hmain => hother (.inr ⟨hmain.elim Eq.symm And.left, rfl⟩)
      rw [if_neg hne]
      exact h.sub_main j hj

theorem PresenceInv.disconnectSubs {bus : Bus} (h : PresenceInv bus) : PresenceInv bus.disconnectSubs where
  attached_present j hj := by
    cases j with
    | main => exact h.attached_present .main hj
    | sub i => rw [Bus.node_sub_disconnectSubs, (Node.setConnected_false_absent _).2] at hj; cases hj
  sub_main i hi := by rw [Bus.node_sub_disconnectSubs, (Node.setConnected_false_absent _).1] at hi; cases hi

section
variable {bus : Bus} (h : PresenceInv bus) {id : NodeId}
include h

/-- A node may become present, with a poller or without, if it is no sub-node of an absent main node. -/
theorem PresenceInv.setNode_present (hsub : ∀ i, id = .sub i → bus.main.present = true) {n : Node}
    (hn : n.present = true) : PresenceInv (bus.setNode id n) :=
  h.setNode (fun _ => hn) (fun i hi _ => hsub i hi) (fun _ _ => hn)

/-- NODE.HANDLEDATA, if a device-information response does not make a sub-node of an absent main node present. -/
theorem PresenceInv.handleData {c : Ctx} {len cmd : Byte} {pl : List Word}
    (hsub : cmd = c.cfg.cmdDeviceInfoResponse → ∀ i, id = .sub i → bus.main.present = true) :
    PresenceInv (bus.handleData c id len cmd pl).1 := by
  by_cases hinfo : cmd = c.cfg.cmdDeviceInfoResponse
  · by_cases hnew : evalFrameTest len pl c.cfg.isController = true ∧ (bus.node id).poller.attached = false
    · rw [Bus.handleData_of_newController hinfo hnew.1 hnew.2]
      exact h.setNode_present (hsub hinfo) rfl
    · rw [Bus.handleData_of_deviceInfo hinfo (by rwa [not_and_or, Bool.not_eq_true, Bool.not_eq_false] at hnew)]
      exact h.setNode_present (hsub hinfo) rfl
  · by_cases hdata : cmd = c.cfg.cmdDataTransfer ∧ (bus.node id).poller.attached = true
    · rw [Bus.handleData_of_dataTransfer hinfo hdata.1 hdata.2]
      exact h.of_same (Bus.updNode_samePresence (f := Node.latch len cmd pl) rfl rfl)
    · rw [Bus.handleData_of_unexpected hinfo (by rwa [not_and_or, Bool.not_eq_true] at hdata)]
      exact h.of_same (bus.raise_samePresence _)

end

/-- A sender names a sub-node only while the main node is present (R108). -/
theorem Bus.main_present_of_route {bus : Bus} {sender : Byte} {i : Fin 5} (h : bus.route sender = some (.sub i)) :
    bus.main.present = true := by
  unfold Bus.route at h
  split_ifs at h with _ hpresent
  · cases h
  · exact hpresent

theorem PresenceInv.dispatch {c : Ctx} {bus bus' : Bus} {words : List Word} {handled : Bool} (h : PresenceInv bus)
    (hdispatch : bus.dispatch c words = .ok (bus', handled)) : PresenceInv bus' := by
  obtain ⟨hdr, pl, _, ⟨rfl, _⟩ | ⟨id, _, hroute, _, heq⟩⟩ := Bus.dispatch_ok hdispatch
  · exact h.of_same (bus.raise_samePresence _)
  · rw [show bus' = _ from congrArg Prod.fst heq]
    exact h.handleData fun _ i hi => Bus.main_present_of_route (hi ▸ hroute)

theorem PresenceInv.fetched {bus : Bus} (h : PresenceInv bus) :
    PresenceInv { bus with t := { bus.t with lvNew := false } } :=
  h.of_same (.of_nodes fun id => by cases id <;> rfl)

theorem PresenceInv.consumeFrame {c : Ctx} {bus bus' : Bus} (h : PresenceInv bus)
    (hconsume : bus.consumeFrame c = .ok bus') : PresenceInv bus' := by
  obtain ⟨_, _, ⟨_, rfl⟩ | ⟨_, _, _, hdispatch⟩⟩ := Bus.consumeFrame_ok hconsume
  · exact h.fetched
  · exact h.fetched.dispatch hdispatch

theorem PresenceInv.ownWork {bus : Bus} (h : PresenceInv bus) (c : Ctx) (currentTime : Nat) (id : NodeId) :
    PresenceInv (bus.ownWork c currentTime id) := by
  have htick := h.of_same (bus.tick_samePresence c currentTime id)
  unfold Bus.ownWork
  split
  · split
    · dsimp only
      split
      · exact htick
      · exact (htick.detach id).setConnected_false id
    · exact h
  · split
    · exact h.of_same (bus.probe_samePresence c currentTime id)
    · exact h

theorem PresenceInv.fanOut {bus : Bus} (h : PresenceInv bus) (c : Ctx) (currentTime : Nat) :
    PresenceInv (bus.fanOut c currentTime) :=
  List.foldlRecOn _ _ h fun _ hb i _ => hb.ownWork c currentTime (.sub i)

theorem PresenceInv.task {c : Ctx} {currentTime : Nat} {bus bus' : Bus} {id : NodeId} (h : PresenceInv bus)
    (htask : bus.task c currentTime id = .ok bus') : PresenceInv bus' := by
  cases id with
  | sub i => cases htask; exact h.ownWork c currentTime (.sub i)
  | main =>
    simp only [Bus.task] at htask
    split at htask
    · cases htask
    next b hb =>
      cases htask
      have hown := (h.consumeFrame hb).ownWork c currentTime .main
      split
      · exact hown.fanOut c currentTime
      · exact hown

/-! ## Every step -/

/-- A bus that is there answers for the presence of its nodes. -/
theorem nodePresent_of_bus {s : State} {b : BusId} {bus : Bus} (hb : s.buses[b.val]? = some bus) (id : NodeId) :
    nodePresent s b id = (bus.node id).present := by
  simp only [nodePresent, hb]

/-- A step that is no call that breaks R248 keeps it on its bus. -/
theorem PresenceInv.effect {i : Instr} {s : State} {b : BusId} {bus bus' : Bus} (h : PresenceInv bus)
    (hb : s.buses[b.val]? = some bus) (hi : busOf i = some b) (hallowed : breaksPresence s i = false)
    (heffect : busEffect (ctxOf s b) bus i = .ok bus') : PresenceInv bus' := by
  by_cases hengine : engineStep i = true
  · obtain ⟨hmain, hsubs, _, _⟩ := engineStep_same hengine heffect
    exact h.of_same (.of_nodes fun id => by cases id <;> simp [hmain, hsubs])
  cases i with
  | write =>
    simp only [busEffect] at heffect
    split at heffect <;> cases heffect
    exact h.of_same (bus.write_samePresence ..)
  | getReadData =>
    obtain ⟨⟨_, words, length, isNew⟩, hread, rfl⟩ := exists_ok_of_map_eq_ok heffect
    obtain ⟨_, _, _, rfl⟩ := Bus.getReadData_ok hread
    exact h.fetched
  | processEvents b currentTime =>
    cases heffect
    refine h.of_same (.of_nodes fun id => ?_)
    unfold Bus.processEvents
    split_ifs <;> cases id <;> rfl
  | nodeHandleData a id len cmd pl =>
    cases hi
    simp only [busEffect] at heffect
    split at heffect <;> cases heffect
    refine h.handleData fun hinfo i hid => ?_
    subst hid
    simpa [breaksPresence, nodePresent_of_bus hb, hinfo] using hallowed
  | nodeTask => exact h.task heffect
  | nodeSetConnected a id state =>
    cases hi
    cases heffect
    cases state with
    | false => exact h.setConnected_false id
    | true =>
      rw [Bus.setConnected_true]
      refine h.setNode_present (fun i hid => ?_) rfl
      subst hid
      simpa [breaksPresence, nodePresent_of_bus hb] using hallowed
  | nodeMainPeripheralDisconnected =>
    simp only [busEffect] at heffect
    split at heffect <;> cases heffect
    exact h.disconnectSubs
  | nodeIsPresent => cases heffect; exact h
  | mainDispatch =>
    simp only [busEffect] at heffect
    split_ifs at heffect
    obtain ⟨⟨_, handled⟩, hdispatch, rfl⟩ := exists_ok_of_map_eq_ok heffect
    exact h.dispatch hdispatch
  | pollerTick =>
    simp only [busEffect] at heffect
    split at heffect <;> cases heffect
    exact h.of_same (bus.tick_samePresence ..)
  | pollerAttach a id =>
    cases hi
    cases heffect
    have hpresent : (bus.node id).present = true := by
      simpa [breaksPresence, nodePresent_of_bus hb] using hallowed
    exact h.setNode_present (fun i hid => h.sub_main i (hid ▸ hpresent)) hpresent
  | pollerDetach a id => cases heffect; exact h.detach id
  | txComplete | rxComplete | txStart | txBit | txEnd | rxWaitStart | rxBit | rxEnd | rxBad => exact absurd rfl hengine
  | _ => cases hi

/-! ## The state after reset (R44) -/

theorem resetTransport_inv (p : Params) (b : Nat) : TransportInv (resetTransport p b) where
  wb_wf := rfl
  rb_wf := rfl
  lv_wf := rfl
  wbLen_le := Nat.zero_le _
  rbCount_le := Nat.zero_le _
  lvLen_le := Nat.zero_le _
  wb_written a ha := absurd ha (Nat.not_lt_zero a)
  rb_written a ha := absurd ha (Nat.not_lt_zero a)
  lv_written a ha := absurd ha (Nat.not_lt_zero a)
  running_crc bytes hbytes := by cases hbytes; rfl
  one_busy := nofun
  new_frame := nofun

theorem resetBus_inv (p : Params) (b : Nat) : BusInv p b (resetBus p b) where
  transport := resetTransport_inv p b
  host_addr := rfl
  poller id := by rw [resetBus_node]; exact ⟨Nat.zero_lt_succ _, neutral_length _⟩
  addr id := by rw [resetBus_node]; rfl

theorem resetTransport_engineInv (p : Params) (b : Nat) : EngineInv (resetTransport p b) where
  one_busy := nofun
  tx_busy := iff_of_false (· rfl) nofun
  rx_busy := iff_of_false (· rfl) nofun
  released _ := ⟨rfl, rfl⟩
  frame_size := nofun
  at_start := nofun
  in_data := nofun
  at_stop := nofun

theorem resetBus_presenceInv (p : Params) (b : Nat) : PresenceInv (resetBus p b) where
  attached_present id h := by rw [resetBus_node] at h; cases h
  sub_main i h := by rw [resetBus_node] at h; cases h

/-- Every bus after reset is a reset bus, and that has the three invariants. -/
theorem resetWith_invariants (p : Params) :
    StateInv (State.resetWith p) ∧ EnginesInv (State.resetWith p) ∧ PresencesInv (State.resetWith p) := by
  refine ⟨⟨State.resetWith_buses_length p, fun b bus h => ?_⟩, fun b bus h => ?_, fun b bus h => ?_⟩ <;>
    obtain rfl := State.eq_resetBus_of_getElem? h
  · exact resetBus_inv p b
  · exact resetTransport_engineInv p b
  · exact resetBus_presenceInv p b

/-- The two parameters the spec decides are under no constraint of R7. -/
theorem platform_wf : Config.platform.wf = true := Config.openParams.lawful

end Sys2Proof.Machine

namespace Sys2Proof.Proofs
open Sys2Proof.Machine

/-- Settles O52: the bus of the step by its effect, the other buses as before. -/
theorem everyStepKeepsThePresenceInvariant : Obligations.EveryStepKeepsThePresenceInvariant := by
  intro i s t hallowed hs h b bus' hb'
  obtain ⟨bus, hb, rfl | ⟨a, ha, rfl, heffect⟩⟩ := exec_bus h hb'
  · exact hs b _ hb
  · exact (hs _ bus hb).effect hb ha hallowed heffect

/-- Settles O53: reset with the platform's parameters is one of the resets. -/
theorem resetHasTheInvariants : Obligations.ResetHasTheInvariants :=
  ⟨resetWith_invariants Config.platform, resetWith_invariants, platform_wf⟩

end Sys2Proof.Proofs
end

section
/-! No unwritten buffer element is ever needed (spec/00_scope.md section 5, spec/10_state.md section 4): settles O54. Of all steps
five read a buffer; each reads inside the buffer's length, where the invariants say that every element is written. -/

namespace Sys2Proof.Machine

/-- The refusal of a step that needs an element nothing has written (log entry 13). -/
def Refusal.IsUnwritten (e : Refusal) : Prop := ∃ space index, e = .unwritten space index

/-- An effect that does not stop for want of an element. -/
def NoUnwritten {α : Type} (x : Except Refusal α) : Prop := ∀ e, x = .error e → ¬ e.IsUnwritten

namespace NoUnwritten
variable {α β : Type}

theorem ok (a : α) : NoUnwritten (.ok a : Except Refusal α) := nofun

theorem error {e : Refusal} (he : ¬ e.IsUnwritten) : NoUnwritten (.error e : Except Refusal α) :=
  fun _ h => by cases h; exact he

theorem ite {p : Prop} [Decidable p] {x y : Except Refusal α} (hx : p → NoUnwritten x) (hy : ¬ p → NoUnwritten y) :
    NoUnwritten (if p then x else y) := by
  split
  next h => exact hx h
  next h => exact hy h

theorem map {x : Except Refusal α} (h : NoUnwritten x) (f : α → β) : NoUnwritten (x.map f) := by
  cases x with
  | ok a => exact ok _
  | error e => exact error (h e rfl)

end NoUnwritten

/-! ## The steps that read a buffer -/

section
variable {bus : Bus} (c : Ctx)

/-- GETREADDATA reads below `T.lvLen`. -/
theorem Bus.getReadData_of_written (hlv : Written bus.t.lv bus.t.lvLen) :
    ∃ words, bus.getReadData =
      .ok ({ bus with t := { bus.t with lvNew := false } }, words, bus.t.lvLen, bus.t.lvNew) := by
  obtain ⟨words, hwords⟩ := hlv.of_readCells
  exact ⟨words, by simp only [Bus.getReadData, hwords]⟩

/-- RXCOMPLETE reads below `T.rbCount`, which is its operand. -/
theorem Bus.takeRxComplete_noUnwritten (count : Nat) (hrb : Written bus.t.rb bus.t.rbCount) :
    NoUnwritten (bus.takeRxComplete c count) := by
  obtain ⟨bytes, hbytes⟩ := hrb.of_readCells
  refine .ite (fun _ => .ite (fun _ => .error nofun) fun hraised => ?_) fun _ => .error nofun
  push Not at hraised
  rw [hraised.2, hbytes]
  exact .ite (fun _ => .ok _) fun _ => .ite (fun _ => .error nofun) fun _ => .ok _

/-- TX.BIT reads below `T.wbLen`, its bit being inside the frame. -/
theorem Bus.txBit_noUnwritten (hwb : Written bus.t.wb bus.t.wbLen)
    (hbit : bus.t.txPhase = .data → bus.t.txBit < 8 * bus.t.wbLen) : NoUnwritten (bus.txBit c) := by
  by_cases hp : bus.t.txPhase = .data
  · have hinside := hbit hp
    obtain ⟨byte, hbyte⟩ := Option.isSome_iff_exists.1 (hwb (bus.t.txBit / 8) (by omega))
    rw [Bus.txBit_of_data c hp hbyte]
    exact .ok _
  · rw [Bus.txBit_of_ne c hp]
    exact .error nofun

theorem Bus.dispatch_noUnwritten (bus : Bus) (words : List Word) : NoUnwritten (bus.dispatch c words) := by
  unfold Bus.dispatch
  split
  · exact .error nofun
  · dsimp only
    split
    · exact .ok _
    · exact .ite (fun _ => .error nofun) fun _ => .ok _

theorem Bus.consumeFrame_noUnwritten (hlv : Written bus.t.lv bus.t.lvLen) : NoUnwritten (bus.consumeFrame c) := by
  obtain ⟨words, hread⟩ := Bus.getReadData_of_written hlv
  simp only [Bus.consumeFrame, hread]
  refine .ite (fun _ => .ite (fun _ => .error nofun) fun _ => ?_) fun _ => .ok _
  split
  next e he => exact .error (Bus.dispatch_noUnwritten c _ words e he)
  next => exact .ok _

/-- NODE.TASK of a main node reads with GETREADDATA. -/
theorem Bus.task_noUnwritten (currentTime : Nat) (id : NodeId) (hlv : Written bus.t.lv bus.t.lvLen) :
    NoUnwritten (bus.task c currentTime id) := by
  cases id with
  | sub i => exact .ok _
  | main =>
    simp only [Bus.task]
    split
    next e he => exact .error (Bus.consumeFrame_noUnwritten c hlv e he)
    next => exact .ok _

/-! ## The other steps that can stop -/

theorem Bus.takeTxComplete_noUnwritten (bus : Bus) : NoUnwritten (bus.takeTxComplete c) :=
  .ite (fun _ => .ite (fun _ => .ok _) fun _ => .error nofun) fun _ => .error nofun

/-- A receiver's micro-step stops by itself only when it is not enabled. -/
theorem Bus.onSymbol_noUnwritten (phase : RxPhase) {f : Bus → Except Refusal Bus} (hf : NoUnwritten (f bus)) :
    NoUnwritten (bus.onSymbol phase f) :=
  .ite (fun _ => .ok _) fun _ => .ite (fun _ => hf) fun _ => .error nofun

end

/-- With the invariants of its transport, no effect on a bus stops for want of an element. -/
theorem busEffect_noUnwritten {c : Ctx} {bus : Bus} (ht : TransportInv bus.t) (he : EngineInv bus.t) (i : Instr) :
    NoUnwritten (busEffect c bus i) := by
  cases i with
  | write | nodeHandleData => exact .ite (fun _ => .error nofun) fun _ => .ok _
  | nodeMainPeripheralDisconnected | pollerTick | txStart => exact .ite (fun _ => .ok _) fun _ => .error nofun
  | getReadData =>
    obtain ⟨words, hread⟩ := Bus.getReadData_of_written ht.lv_written
    exact NoUnwritten.map (hread ▸ .ok _) _
  | nodeTask => exact Bus.task_noUnwritten c _ _ ht.lv_written
  | mainDispatch b words length =>
    exact .ite (fun _ => .error nofun) fun _ =>
      .ite (fun _ => .error nofun) fun _ => (Bus.dispatch_noUnwritten c bus words).map _
  | txComplete => exact bus.takeTxComplete_noUnwritten c
  | rxComplete b count => exact Bus.takeRxComplete_noUnwritten c count ht.rb_written
  | txBit => exact Bus.txBit_noUnwritten c ht.wb_written he.in_data
  | txEnd => exact .ite (fun _ => Bus.takeTxComplete_noUnwritten c _) fun _ => .error nofun
  | rxWaitStart =>
    unfold busEffect Bus.rxWaitStart
    exact Bus.onSymbol_noUnwritten _ (.ite (fun _ => .ok _) fun _ => .ok _)
  | rxBit =>
    unfold busEffect Bus.rxBit
    exact Bus.onSymbol_noUnwritten _ (.ok _)
  | rxEnd =>
    unfold busEffect Bus.rxEnd
    exact Bus.onSymbol_noUnwritten _ (Bus.takeRxComplete_noUnwritten (bus := bus.endReceived) c _ ht.rb_written)
  | rxBad =>
    unfold busEffect Bus.rxBad
    exact Bus.onSymbol_noUnwritten _ (.ok _)
  | _ => exact .ok _

/-- A step that names no bus reads no buffer: it is refused for its operands, if at all. -/
theorem exec_refused_of_no_bus {i : Instr} {s : State} {e : Refusal} (hi : busOf i = none) (h : exec i s = .refused e) :
    ¬ e.IsUnwritten := by
  have bytes : ∀ {bs n r}, onBytes bs n s r = .refused e → ¬ e.IsUnwritten := by
    intro bs n r h
    unfold onBytes at h
    split_ifs at h <;> cases h <;> nofun
  cases i with
  | computeCrc | validate | parse => exact bytes h
  | encode =>
    simp only [exec, execEncode] at h
    split at h <;> cases h
    nofun
  | getRecipientAddress player target =>
    simp only [exec, execGetRecipientAddress] at h
    split at h
    · cases h; nofun
    · cases target with
      | main => cases h
      | sub j => dsimp only at h; split at h <;> cases h; nofun
  | subPeripheralIndex =>
    simp only [exec, execSubPeripheralIndex] at h
    split at h <;> cases h
    nofun
  | subPeripheralMask | condDecode | crcClear | crcUpdate => cases h
  | _ => cases hi

end Sys2Proof.Machine

namespace Sys2Proof.Proofs
open Sys2Proof.Machine

/-- Settles O54: there is no fault to answer; a refusal on a bus is the missing bus or that of its effect. -/
theorem nothingUnwrittenIsRead : Obligations.NothingUnwrittenIsRead := by
  intro i s
  refine ⟨(nomatch ·), fun hstate hengines space index h => ?_⟩
  cases hi : busOf i with
  | none => exact exec_refused_of_no_bus hi h ⟨space, index, rfl⟩
  | some b =>
    obtain ⟨f, hexec, hf⟩ := exec_eq_busOperation hi s
    obtain hnone | ⟨bus, hb, herror⟩ := busOperation_refused (hexec ▸ h)
    · cases hnone
    · rw [hf] at herror
      exact busEffect_noUnwritten (hstate.bus _ bus hb).transport (hengines _ bus hb) i _ herror ⟨space, index, rfl⟩

end Sys2Proof.Proofs
end

section
/-! The codecs once more (spec/40_frame_codec.md, spec/41_address_codec.md) and the node layer's word arrays: settles O7, O10,
O13, O14 and O17. -/

namespace Sys2Proof.Machine

/-! ## PARSE on an encoded frame (R124, R128) -/

section
variable (layout : HdrLayout) (command sender recipient : Byte) {payload : List Word} {len : Byte}
  (h : len.toNat ≤ payload.length)
include h

/-- The words of a frame's bytes before the CRC are the header word and the payload. -/
theorem wordsOfWire_frameBytes :
    wordsOfWire ((frameBytes layout command sender recipient payload len).take (frameSize len.toNat - 1)) =
      headerWord layout command recipient sender len :: payload.take len.toNat := by
  have hbody : frameSize len.toNat - 1 = (frameBody layout command sender recipient payload len).length :=
    (length_frameBody layout command sender recipient h).symm
  rw [hbody, frameBytes, List.take_left, frameBody, wordsOfWire_wireBytes]

theorem parseFrame_frameBytes :
    ∃ crc, parseFrame layout (frameBytes layout command sender recipient payload len) (frameSize len.toNat) =
      some ⟨command, recipient, sender, len, headerWord layout command recipient sender len :: payload.take len.toNat,
        crc⟩ := by
  have hwords := wordsOfWire_frameBytes layout command sender recipient h
  have hsize : frameSizeOk (frameSize len.toNat) = true := by
    rw [frameSizeOk_iff, frameSize]
    omega
  have hlen : len.toNat = (frameSize len.toNat - 5) / 4 := by
    rw [frameSize]
    omega
  have hparse := parseFrame_of_headerWord hsize (congrArg (List.headD · 0) hwords)
  rw [if_pos hlen, hwords] at hparse
  exact ⟨_, hparse⟩

end

/-! ## The CRC register (R120, R121) -/

theorem exec_crcUpdate (x : Byte) (s : State) : exec (.crcUpdate x) s = .next { s with crc := s.crc ^^^ x } := rfl

theorem execAll_crcUpdate_pair (x y : Byte) (s : State) :
    execAll [.crcUpdate x, .crcUpdate y] s = .next { s with crc := s.crc ^^^ x ^^^ y } := rfl

/-! ## The parts of a composed address (R95, R96, R141, R142) -/

theorem setWidth_eight_toNat_le (p : BitVec 2) : (p.setWidth 8).toNat ≤ 3 := by
  revert p; decide

section
variable (p : BitVec 2) (i : Fin 5)

theorem playerOf_subAddress : playerOf (subAddress p i) = p := by
  revert p i; decide

theorem subAddress_and_mask : subAddress p i &&& (0x1F : Byte) = ((1 <<< i.val : Nat) : Byte) := by
  revert p i; decide

theorem isSub_subAddress : isSub (subAddress p i) = true ∧ isMain (subAddress p i) = false := by
  revert p i; decide

theorem playerOf_mainAddress : playerOf (mainAddress p) = p := by
  revert p; decide

theorem mainAddress_and_mask : mainAddress p &&& (0x1F : Byte) = 0 := by
  revert p; decide

theorem isMain_mainAddress : isMain (mainAddress p) = true := by
  revert p; decide

theorem exec_getRecipientAddress_eq_subAddress (s : State) :
    exec (.getRecipientAddress (p.setWidth 8) (.sub (BitVec.ofNat 8 i.val))) s =
      .next { s with ret := .addr (subAddress p i) } := by
  have hi : (BitVec.ofNat 8 i.val).toNat = i.val := Nat.mod_eq_of_lt (by omega)
  rw [exec_getRecipientAddress_sub s (setWidth_eight_toNat_le p) (by omega), hi, subAddress_eq_or]

theorem exec_getRecipientAddress_eq_mainAddress (s : State) :
    exec (.getRecipientAddress (p.setWidth 8) .main) s = .next { s with ret := .addr (mainAddress p) } := by
  rw [exec_getRecipientAddress_main s (setWidth_eight_toNat_le p), mainAddress_eq_or]

end

/-! ## Word arrays (log entries 32, 35) -/

section
variable {s : State} {b : BusId} {bus : Bus} (hb : s.buses[b.val]? = some bus)
include hb

theorem exec_nodeHandleData_of_short {id : NodeId} {len cmd : Byte} {payload : List Word}
    (h : payload.length < len.toNat) : exec (.nodeHandleData b id len cmd payload) s = .refused .arrayTooShort := by
  rw [exec_nodeHandleData]
  exact busOperation_of_error hb (if_pos h)

theorem exec_mainDispatch_of_short {words : List Word} {length : Nat} (h : words.length < length) :
    exec (.mainDispatch b words length) s = .refused .arrayTooShort := by
  rw [exec_mainDispatch]
  exact busOperation_of_error hb ((if_neg (Nat.ne_zero_of_lt h)).trans (if_pos h))

theorem exec_mainDispatch_of_dispatch_error {words : List Word} {length : Nat} {e : Refusal} (hpos : 0 < length)
    (hle : length ≤ words.length) (h : bus.dispatch (ctxOf s b) words = .error e) :
    exec (.mainDispatch b words length) s = .refused e := by
  rw [exec_mainDispatch]
  exact busOperation_of_error hb (by rw [if_neg hpos.ne', if_neg (Nat.not_lt.2 hle), h])

end

/-- A frame whose header tells more words than there are stops at the node its sender names. -/
theorem Bus.dispatch_of_short {c : Ctx} {bus : Bus} {cmd recipient sender len : Byte} {payload : List Word} {id : NodeId}
    (hplayer : playerOf sender = c.player) (hroute : bus.route sender = some id) (hshort : payload.length < len.toNat) :
    bus.dispatch c (headerWord c.cfg.hdrLayout cmd recipient sender len :: payload) = .error .arrayTooShort := by
  simp [Bus.dispatch, hplayer, hroute, hshort]

/-- A sender that is the main node's address or, while the main node is present, a sub-node's names a node. -/
theorem Bus.exists_route {bus : Bus} {sender : Byte}
    (h : sender.getLsbD 5 = true ∨ (bus.main.present = true ∧ ∃ i : Fin 5, sender &&& 0x1F = 1 <<< i.val)) :
    ∃ id, bus.route sender = some id := by
  cases h5 : sender.getLsbD 5 with
  | true => exact ⟨_, Bus.route_main h5⟩
  | false =>
    obtain ⟨hpresent, i, hi⟩ := h.resolve_left (Bool.eq_false_iff.1 h5)
    exact ⟨_, Bus.route_sub h5 hpresent hi⟩

end Sys2Proof.Machine

namespace Sys2Proof.Proofs
open Sys2Proof.Machine

/-- Settles O7: the first two counts are tested first, the third once the frame has a node to go to. -/
theorem shortWordArraysAreRefused : Obligations.ShortWordArraysAreRefused := by
  intro s b bus hb
  refine ⟨fun id len cmd payload => exec_nodeHandleData_of_short hb, fun words length => exec_mainDispatch_of_short hb,
    fun cmd recipient sender len payload length hpos hle hshort hplayer hnode => ?_⟩
  obtain ⟨id, hroute⟩ := Bus.exists_route hnode
  exact exec_mainDispatch_of_dispatch_error hb hpos hle (Bus.dispatch_of_short hplayer hroute hshort)

/-- Settles O10: VALIDATE answers `crcValid`, of which the three clauses are known. -/
theorem validateComparesTheLastByte : Obligations.ValidateComparesTheLastByte := by
  intro bytes n s hbuf hlen
  refine ⟨rfl, _, exec_validate_of_le s hbuf hlen, crcValid_iff_last bytes n hlen, crcValid_iff_zero bytes n hlen,
    fun hvalid i x hi hx => ?_⟩
  rw [exec_validate_of_le s hbuf (by rwa [List.length_set]), crcValid_set_of_ne hlen hvalid hi hx]

/-- Settles O13: the words of the encoded bytes are the header word, whose fields PARSE reads back, and the payload. -/
theorem parseInvertsEncode : Obligations.ParseInvertsEncode := by
  intro command sender recipient payload len s h
  obtain ⟨crc, hparse⟩ := parseFrame_frameBytes s.cfg.hdrLayout command sender recipient h
  have hlen := (length_frameBytes s.cfg.hdrLayout command sender recipient payload len h).ge
  have hanswer := exec_parse_of_le s (frameSize_le_bufBytes len) hlen
  rw [hparse] at hanswer
  refine ⟨_, _, _, exec_encode_of_le command sender recipient s h, hanswer, rfl, rfl, rfl, rfl, fun i hi => ?_⟩
  rw [Nat.add_comm, List.getElem?_cons_succ, List.getElem?_take_of_lt hi]

/-- Settles O14: the register is xored, and exclusive or commutes and cancels. -/
theorem crcStepsWriteTheCrcRegister : Obligations.CrcStepsWriteTheCrcRegister := by
  intro s x y
  refine ⟨rfl, rfl, rfl, exec_crcUpdate x s, ?_, ?_⟩
  · rw [execAll_crcUpdate_pair, BitVec.xor_assoc, BitVec.xor_self, BitVec.xor_zero]
  · rw [execAll_crcUpdate_pair, execAll_crcUpdate_pair, BitVec.xor_assoc, BitVec.xor_comm x y, ← BitVec.xor_assoc]

/-- Settles O17: the parts of the composed addresses are those they were composed of. -/
theorem addressRoundTrip : Obligations.AddressRoundTrip := by
  intro p i s
  have hindex := oneHotIndex_of_eq _ i (subAddress_and_mask p i)
  refine ⟨⟨_, exec_getRecipientAddress_eq_subAddress p i s, playerOf_subAddress p i, ?_,
    exec_subPeripheralIndex_of_some s hindex, isSub_subAddress p i⟩,
    _, exec_getRecipientAddress_eq_mainAddress p s, playerOf_mainAddress p, isMain_mainAddress p, ?_⟩
  · rw [exec_subPeripheralMask, subAddress_and_mask]
  · rw [exec_subPeripheralMask, mainAddress_and_mask]

end Sys2Proof.Proofs
end

section
/-! The lines, WRITE and the open-line window (spec/42_bus_transmitter.md section 1, spec/44_bus_transport.md): settles O18, O19
and O35. -/

namespace Sys2Proof.Machine

/-! ## The open-line check (R157) -/

theorem Bus.linesIdleDuring_iff_pulses (bus : Bus) (t0 t1 : Nat) : bus.linesIdleDuring t0 t1 = true ↔
    (bus.t.driveA = .release ∧ bus.t.driveB = .release) ∧
      ∀ p ∈ bus.env, p.stop < p.start ∨ p.stop < t0 ∨ t1 < p.start := by
  simp only [Bus.linesIdleDuring, Bool.and_eq_true, decide_eq_true_eq, List.all_eq_true, Bool.or_eq_true, or_assoc]

/-- A pulse that meets the window covers the later of the two beginnings, so the instants of the window tell. -/
theorem Bus.linesIdleDuring_iff (bus : Bus) {t0 t1 : Nat} (h01 : t0 ≤ t1) : bus.linesIdleDuring t0 t1 = true ↔
    ∀ i, t0 ≤ i → i ≤ t1 → bus.lineHigh .a i = true ∧ bus.lineHigh .b i = true := by
  rw [Bus.linesIdleDuring_iff_pulses]
  constructor
  · rintro ⟨⟨hA, hB⟩, hpulses⟩ i h0 h1
    have missed : ∀ p ∈ bus.env, ¬ (p.start ≤ i ∧ i ≤ p.stop) := by
      intro p hp hcover
      have := hpulses p hp
      omega
    exact ⟨(bus.lineHigh_iff .a i).2 ⟨hA, fun p hp _ => missed p hp⟩,
      (bus.lineHigh_iff .b i).2 ⟨hB, fun p hp _ => missed p hp⟩⟩
  · intro hhigh
    have hline : ∀ (l : Line) (i : Nat), t0 ≤ i → i ≤ t1 → bus.lineHigh l i = true := by
      intro l i h0 h1
      cases l with
      | a => exact (hhigh i h0 h1).1
      | b => exact (hhigh i h0 h1).2
    refine ⟨⟨((bus.lineHigh_iff .a t0).1 (hline .a t0 le_rfl h01)).1,
      ((bus.lineHigh_iff .b t0).1 (hline .b t0 le_rfl h01)).1⟩, fun p hp => ?_⟩
    by_contra hmeets
    push Not at hmeets
    have hcovered := hline p.line (max t0 p.start) (le_max_left ..) (max_le h01 hmeets.2.2)
    exact ((bus.lineHigh_iff ..).1 hcovered).2 p hp rfl ⟨le_max_right .., max_le hmeets.2.1 hmeets.1⟩

/-! ## WRITE on a free bus (R204) -/

section
variable {s : State} {b : BusId} {bus : Bus} {command recipient : Byte} {payload : List Word} {len : Byte} {expect : Bool}
  {timeout : Word} (hb : s.buses[b.val]? = some bus)
include hb

theorem exec_write_of_eq {bus' : Bus} {ok : Bool} (hlen : len.toNat ≤ payload.length)
    (h : bus.write (ctxOf s b) command recipient payload len expect timeout = (bus', ok)) :
    exec (.write b command recipient payload len expect timeout) s =
      .next { s with buses := s.buses.set b.val bus', ret := .bool ok } := by
  rw [exec_write_of_le hb command recipient hlen, h]

variable (hwin : bus.windowEnd ≤ s.now) (hlen : len.toNat ≤ payload.length) (hfree : bus.t.busy = false)
include hwin hlen hfree

theorem exec_write_of_not_idle (hidle : bus.linesIdleDuring s.now (s.now + s.cfg.openLineCheckUs) = false) :
    exec (.write b command recipient payload len expect timeout) s =
      .next { s with
        buses := s.buses.set b.val
          (({ bus with windowEnd := s.now + s.cfg.openLineCheckUs } : Bus).raise .lineNotIdle)
        ret := .bool false } := by
  refine exec_write_of_eq hb hlen ?_
  simp [Bus.write, hfree, Bus.instant_of_windowEnd_le hwin, hidle]

theorem exec_write_of_idle (hidle : bus.linesIdleDuring s.now (s.now + s.cfg.openLineCheckUs) = true) :
    exec (.write b command recipient payload len expect timeout) s =
      .next { s with
        buses := s.buses.set b.val
          { bus with
            t := bus.t.accept s.cfg (s.now + s.cfg.openLineCheckUs) command recipient payload len expect timeout
            windowEnd := s.now + s.cfg.openLineCheckUs }
        ret := .bool true } := by
  refine exec_write_of_eq hb hlen ?_
  simp [Bus.write, hfree, Bus.instant_of_windowEnd_le hwin, hidle]

end

/-- What is read back from the write buffer after an accepted WRITE: the frame, and beyond it what was there. -/
theorem Transport.readCell_accept (t : Transport) (p : Params) (t1 : Nat) (command recipient : Byte) {payload : List Word}
    {len : Byte} (expect : Bool) (timeout : Word) (hlen : len.toNat ≤ payload.length) (a : Nat) :
    readCell (t.accept p t1 command recipient payload len expect timeout).wb a =
      if a < frameSize len.toNat then (frameBytes p.hdrLayout command t.hostAddr recipient payload len)[a]?
      else readCell t.wb a := by
  rw [Transport.accept_wb, readCell_writeCells, length_frameBytes _ _ _ _ _ _ hlen]
  simp only [Nat.zero_le, true_and, Nat.zero_add, Nat.sub_zero]

/-! ## A step inside an open-line window (log entry 9) -/

theorem Bus.instant_windowEnd {bus : Bus} {now : Nat} (h : now ≤ bus.windowEnd) :
    bus.instant now = bus.instant bus.windowEnd :=
  (max_eq_right h).trans (max_self _).symm

/-- WRITE reads the clock through the instant its bus has reached. -/
theorem Bus.write_of_instant_eq {bus : Bus} {c c' : Ctx} (hcfg : c.cfg = c'.cfg)
    (h : bus.instant c.now = bus.instant c'.now) (command recipient : Byte) (payload : List Word) (len : Byte)
    (expect : Bool) (timeout : Word) :
    bus.write c command recipient payload len expect timeout = bus.write c' command recipient payload len expect timeout := by
  simp only [Bus.write, hcfg, h]

theorem Bus.takeTxComplete_of_instant_eq {bus : Bus} {c c' : Ctx} (h : bus.instant c.now = bus.instant c'.now) :
    bus.takeTxComplete c = bus.takeTxComplete c' := by
  simp only [Bus.takeTxComplete, h]

theorem Bus.txEnd_of_instant_eq {bus : Bus} {c c' : Ctx} (h : bus.instant c.now = bus.instant c'.now) :
    bus.txEnd c = bus.txEnd c' := by
  by_cases hp : bus.t.txPhase = .stop
  · rw [Bus.txEnd_of_stop c hp, Bus.txEnd_of_stop c' hp]
    exact Bus.takeTxComplete_of_instant_eq h
  · rw [Bus.txEnd, Bus.txEnd, if_neg hp, if_neg hp]

section
variable {s t : State} {b : BusId} {bus : Bus} {now : Nat} (hb : s.buses[b.val]? = some bus)
include hb

/-- An operation whose effect is the same at another clock completes as it does there, but for the clock. -/
theorem busOperation_at_clock {f : Ctx → Bus → Except Refusal (Bus × Ret)}
    (hf : f (ctxOf s b) bus = f (ctxOf { s with now := now } b) bus)
    (h : busOperation b { s with now := now } f = .next t) : busOperation b s f = .next { t with now := s.now } := by
  obtain ⟨bus0, bus', r, hb0, hok, rfl⟩ := busOperation_next_iff.1 h
  cases hb.symm.trans hb0
  exact busOperation_of_ok hb (hf.trans hok)

theorem busEvent_at_clock {f : Ctx → Bus → Except Refusal Bus}
    (hf : f (ctxOf s b) bus = f (ctxOf { s with now := now } b) bus)
    (h : busEvent b { s with now := now } f = .next t) : busEvent b s f = .next { t with now := s.now } := by
  obtain ⟨bus0, bus', hb0, hok, rfl⟩ := busEvent_next_iff.1 h
  cases hb.symm.trans hb0
  exact busEvent_of_ok hb (hf.trans hok)

end

end Sys2Proof.Machine

namespace Sys2Proof.Proofs
open Sys2Proof.Machine

/-- Settles O18. -/
theorem linesIdleMeansBothHighThroughout : Obligations.LinesIdleMeansBothHighThroughout :=
  fun bus => ⟨bus.lineHigh_iff, fun _ _ => bus.linesIdleDuring_iff⟩

/-- Settles O19: the three ways of a WRITE, its window beginning at the clock. -/
theorem writeStartsATransmission : Obligations.WriteStartsATransmission := by
  intro s b bus command recipient payload len expect timeout hb hwin
  have hidle := bus.linesIdleDuring_iff (Nat.le_add_right s.now s.cfg.openLineCheckUs)
  refine ⟨rfl, fun hshort => exec_write_of_lt hb hshort command recipient expect timeout, fun hlen hbusy => ?_,
    fun hlen hw hr hlow => ?_, fun hlen hw hr hhigh => ?_⟩
  · exact exec_write_of_eq hb hlen (Bus.write_of_busy ((Transport.busy_iff _).2 hbusy))
  · exact exec_write_of_not_idle hb hwin hlen (Bool.or_eq_false_iff.2 ⟨hw, hr⟩) (Bool.eq_false_iff.2 (mt hidle.1 hlow))
  · exact ⟨_, _, exec_encode_of_le command bus.t.hostAddr recipient s hlen,
      Transport.readCell_accept bus.t s.cfg (s.now + s.cfg.openLineCheckUs) command recipient expect timeout hlen,
      exec_write_of_idle hb hwin hlen (Bool.or_eq_false_iff.2 ⟨hw, hr⟩) (hidle.2 hhigh)⟩

/-- Settles O35: inside the window the instant of the bus is the window's end, at both clocks. -/
theorem stepsInsideAWindowReadItsEnd : Obligations.StepsInsideAWindowReadItsEnd := by
  intro s t b bus i hb hinside hi h
  have hinstant : bus.instant (ctxOf s b).now = bus.instant (ctxOf { s with now := bus.windowEnd } b).now :=
    Bus.instant_windowEnd hinside
  obtain ⟨command, recipient, payload, len, expect, timeout, rfl⟩ | rfl | rfl := hi
  · rw [exec_write] at h ⊢
    have hwrite := Bus.write_of_instant_eq (c := ctxOf s b) (c' := ctxOf { s with now := bus.windowEnd } b) rfl hinstant
      command recipient payload len expect timeout
    exact busOperation_at_clock hb (by simp only [hwrite]) h
  · rw [exec_txComplete] at h ⊢
    exact busEvent_at_clock hb (Bus.takeTxComplete_of_instant_eq hinstant) h
  · rw [exec_txEnd] at h ⊢
    exact busEvent_at_clock hb (Bus.txEnd_of_instant_eq hinstant) h

end Sys2Proof.Proofs
end

section
/-! The receive engine inside a frame and the end of a reception (spec/43_bus_receiver.md, spec/44_bus_transport.md R212), and
micro-steps that are not enabled: settles O24, O30, O31, O33, O34 and O36. -/

namespace Sys2Proof.Machine

/-! ## A bit shifted in (R179, R180) -/

section
variable {t : Transport} (v : Bool)

theorem Transport.shiftIn_inside (h : t.rxBitCnt.val < 7) :
    t.shiftIn v = { t with rxShift := t.rxShift.shiftConcat v, rxBitCnt := t.rxBitCnt + 1 } :=
  if_neg fun heq => h.ne (congrArg Fin.val heq)

variable (h : t.rxBitCnt.val = 7)
include h

theorem Transport.shiftIn_last :
    t.shiftIn v = ({ t with rxShift := t.rxShift.shiftConcat v } : Transport).storeByte (t.rxShift.shiftConcat v) :=
  if_pos (Fin.ext h)

/-- The eighth bit stores the byte while the buffer has room. -/
theorem Transport.shiftIn_last_stores (hroom : t.rbCount < 1029) :
    t.shiftIn v =
      { t with
        rxShift := t.rxShift.shiftConcat v
        rb := writeCell t.rb t.rbCount (t.rxShift.shiftConcat v)
        rxCrc := t.rxCrc ^^^ t.rxShift.shiftConcat v
        rbCount := t.rbCount + 1
        rxBitCnt := 0 } :=
  (Transport.shiftIn_last v h).trans (if_pos hroom)

/-- The eighth bit with a full buffer sets the overflow latch. -/
theorem Transport.shiftIn_last_overflows (hfull : 1029 ≤ t.rbCount) :
    t.shiftIn v = { t with rxShift := t.rxShift.shiftConcat v, rxOverflow := true, rxBitCnt := 0 } :=
  (Transport.shiftIn_last v h).trans (if_neg (Nat.not_lt.2 hfull))

end

/-! ## RX.BIT and RX.BAD in phase DATA (R176, R179, R184) -/

section
variable {s : State} {b : BusId} {bus : Bus} (hb : s.buses[b.val]? = some bus) (hp : bus.t.rxPhase = .data)
include hb hp

theorem exec_rxBit_of_data (bit : ClockedBit) :
    exec (.rxBit b bit) s = .next { s with
      buses := s.buses.set b.val { bus with
        t := if bit.clock = clockLine s.cfg bus.t.rxBitCnt.val then bus.t.shiftIn bit.value else bus.t.kill } } := by
  rw [exec_rxBit]
  exact busEvent_of_ok hb (Bus.onSymbol_of_phase _ hp nofun nofun)

/-- A bit of its own line phase is shifted in. -/
theorem exec_rxBit_of_clock {t' : Transport} {v : Bool} {clock : Line} (hclock : clock = clockLine s.cfg bus.t.rxBitCnt.val)
    (h : bus.t.shiftIn v = t') :
    exec (.rxBit b ⟨v, clock⟩) s = .next { s with buses := s.buses.set b.val { bus with t := t' } } := by
  rw [exec_rxBit_of_data hb hp, if_pos hclock, h]

/-- A bit of the other line phase is BAD. -/
theorem exec_rxBit_of_ne_clock {v : Bool} {clock : Line} (hclock : clock ≠ clockLine s.cfg bus.t.rxBitCnt.val) :
    exec (.rxBit b ⟨v, clock⟩) s =
      .next { s with buses := s.buses.set b.val { bus with t := { bus.t with rxPhase := .dead } } } := by
  rw [exec_rxBit_of_data hb hp, if_neg hclock]
  rfl

theorem exec_rxBad_of_data :
    exec (.rxBad b) s =
      .next { s with buses := s.buses.set b.val { bus with t := { bus.t with rxPhase := .dead } } } := by
  rw [exec_rxBad]
  exact busEvent_of_ok hb (Bus.onSymbol_of_phase _ hp nofun nofun)

end

/-! ## The bits of one byte (R179) -/

/-- The bus inside a byte: `k` bits are held, and the shift register holds `shifted`. -/
def Bus.midByte (bus : Bus) (shifted : Byte) (k : Fin 8) : Bus :=
  { bus with t := { bus.t with rxShift := shifted, rxBitCnt := k } }

/-- The RX.BIT steps of some bits, the first of them bit `k` of its byte. -/
def rxBits (p : Params) (b : BusId) (k : Nat) (bits : List Bool) : List Instr :=
  (bits.zipIdx k).map fun q => .rxBit b ⟨q.1, clockLine p q.2⟩

section
variable {s : State} {b : BusId} {bus : Bus} (hb : s.buses[b.val]? = some bus) (hp : bus.t.rxPhase = .data)
include hb hp

/-- Bits that do not complete the byte are shifted in, one after another. -/
theorem execAll_rxBits_midByte (bits : List Bool) :
    ∀ (shifted : Byte) (k k' : Fin 8), k.val + bits.length = k'.val →
      execAll (rxBits s.cfg b k.val bits) { s with buses := s.buses.set b.val (bus.midByte shifted k) } =
        .next { s with buses := s.buses.set b.val (bus.midByte (bits.foldl BitVec.shiftConcat shifted) k') } := by
  induction bits with
  | nil =>
    intro shifted k k' hk
    rw [show k' = k from Fin.ext hk.symm]
    rfl
  | cons v bits ih =>
    intro shifted k k' hk
    rw [List.length_cons] at hk
    have hinside : k.val < 7 := by omega
    have hnext : (k + 1).val = k.val + 1 := by simp only [Fin.val_add, Fin.val_one]; omega
    have hbit := exec_rxBit_of_clock (s := { s with buses := s.buses.set b.val (bus.midByte shifted k) })
      (getElem?_set_bus_same hb) hp (v := v) rfl (Transport.shiftIn_inside v hinside)
    refine (execAll_cons_of_next hbit).trans ?_
    rw [List.set_set, ← hnext]
    exact ih (shifted.shiftConcat v) (k + 1) k' (by omega)

/-- With seven bits held, the last bit of a byte stores it. -/
theorem exec_rxBit_midByte_last (x shifted : Byte) (v : Bool) (hx : shifted.shiftConcat v = x)
    (hroom : bus.t.rbCount < 1029) :
    exec (.rxBit b ⟨v, clockLine s.cfg 7⟩) { s with buses := s.buses.set b.val (bus.midByte shifted 7) } =
      .next { s with
        buses := s.buses.set b.val
          { bus with
            t :=
              { bus.t with
                rxShift := x, rb := writeCell bus.t.rb bus.t.rbCount x, rxCrc := bus.t.rxCrc ^^^ x
                rbCount := bus.t.rbCount + 1, rxBitCnt := 0 } } } := by
  subst hx
  have hstore := Transport.shiftIn_last_stores (t := (bus.midByte shifted 7).t) v rfl hroom
  have hbit := exec_rxBit_of_clock (s := { s with buses := s.buses.set b.val (bus.midByte shifted 7) })
    (getElem?_set_bus_same hb) hp rfl hstore
  rw [List.set_set] at hbit
  exact hbit

end

/-- The RX.BIT steps of a byte from bit 7 to bit 0 are those of its first seven bits and of its last. -/
theorem rxBits_of_byte (p : Params) (b : BusId) (x : Byte) :
    ([7, 6, 5, 4, 3, 2, 1, 0].map fun j => Instr.rxBit b
      ⟨x.getLsbD j, if j % 2 = 1 then p.firstClockLine else otherLine p.firstClockLine⟩) =
      rxBits p b 0 ([7, 6, 5, 4, 3, 2, 1].map x.getLsbD) ++ [.rxBit b ⟨x.getLsbD 0, clockLine p 7⟩] := by
  simp [rxBits, clockLine]

/-! ## RXCOMPLETE where RX.END raises it (R212) -/

section
variable {bus : Bus} {c : Ctx} {bytes : List Byte} {n : Nat}

theorem Bus.judge_of_invalid (hvalid : crcValid bytes n = false) : bus.judge c bytes n = bus.raise .crcMismatch := by
  simp [Bus.judge, hvalid]

theorem Bus.judge_of_malformed (hvalid : crcValid bytes n = true)
    (hparse : parseFrame c.cfg.hdrLayout bytes n = none) : bus.judge c bytes n = bus.raise .malformed := by
  simp [Bus.judge, hvalid, hparse]

theorem Bus.judge_of_frame {f : ParsedFrame} (hvalid : crcValid bytes n = true)
    (hparse : parseFrame c.cfg.hdrLayout bytes n = some f) :
    bus.judge c bytes n = { bus with t := bus.t.publish f } := by
  simp [Bus.judge, hvalid, hparse]

end

section
variable {s : State} {b : BusId} {bus : Bus} {count : Nat} (hb : s.buses[b.val]? = some bus)
include hb

theorem exec_rxComplete_of_not_readBusy (hr : bus.t.readBusy = false) :
    exec (.rxComplete b count) s = .refused .notReadBusy := by
  rw [exec_rxComplete]
  exact busEvent_of_error hb (if_neg (Bool.eq_false_iff.1 hr))

variable (hr : bus.t.readBusy = true)
include hr

theorem exec_rxComplete_of_not_raised (hnot : bus.t.rxPhase ≠ .off ∨ count ≠ bus.t.rbCount) :
    exec (.rxComplete b count) s = .refused .notRaised := by
  rw [exec_rxComplete]
  exact busEvent_of_error hb ((if_pos hr).trans (if_pos hnot))

variable (hp : bus.t.rxPhase = .off) (hcount : count = bus.t.rbCount)
include hp hcount

theorem exec_rxComplete_of_spoiled
    (hspoiled : bus.t.rxBad = true ∨ bus.t.rxOverflow = true ∨ frameSizeOk count = false) :
    exec (.rxComplete b count) s =
      .next { s with
        buses := s.buses.set b.val (({ bus with t := { bus.t with readBusy := false } } : Bus).raise .malformed) } := by
  have hspoiled' : (bus.t.rxBad || bus.t.rxOverflow || !frameSizeOk count) = true := by
    simpa [or_assoc] using hspoiled
  rw [exec_rxComplete]
  exact busEvent_of_ok hb ((if_pos hr).trans ((if_neg (by simp [hp, hcount])).trans (if_pos hspoiled')))

/-- A reception of a right size, with no latch set and all its bytes written, is judged. -/
theorem exec_rxComplete_of_bytes {bus' : Bus} {bytes : List Byte} (hbad : bus.t.rxBad = false)
    (hover : bus.t.rxOverflow = false) (hsize : frameSizeOk count = true) (hbuf : count ≤ 1029)
    (hread : readCells bus.t.rb 0 count = .ok bytes)
    (hjudge : ({ bus with t := { bus.t with readBusy := false } } : Bus).judge (ctxOf s b) bytes count = bus') :
    exec (.rxComplete b count) s = .next { s with buses := s.buses.set b.val bus' } := by
  have hclean : ¬ (bus.t.rxBad || bus.t.rxOverflow || !frameSizeOk count) = true := by simp [hbad, hover, hsize]
  have hfits : ¬ bufBytes < count := Nat.not_lt.2 hbuf
  rw [exec_rxComplete]
  refine busEvent_of_ok hb ((if_pos hr).trans ((if_neg (by simp [hp, hcount])).trans ((if_neg hclean).trans
    ((if_neg hfits).trans ?_))))
  rw [hread, ← hjudge]

end

/-- What is read back from the snapshot after a frame is published: its words, and beyond them what was there. -/
theorem Transport.readCell_publish (t : Transport) {f : ParsedFrame} (hlen : f.words.length = 1 + f.length.toNat)
    (a : Nat) :
    readCell (t.publish f).lv a = if a ≤ f.length.toNat then f.words[a]? else readCell t.lv a := by
  rw [Transport.publish_lv, readCell_writeCells, hlen]
  simp only [Nat.zero_le, true_and, Nat.zero_add, Nat.sub_zero, Nat.lt_one_add_iff]

/-! ## Micro-steps that are not enabled (log entries 18, 19) -/

theorem Bus.onSymbol_of_dropped {bus : Bus} (phase : RxPhase) (f : Bus → Except Refusal Bus)
    (hp : bus.t.rxPhase = .off ∨ bus.t.rxPhase = .dead) : bus.onSymbol phase f = .ok bus :=
  if_pos hp

theorem Bus.onSymbol_of_other {bus : Bus} {phase phase' : RxPhase} (f : Bus → Except Refusal Bus)
    (hp : bus.t.rxPhase = phase') (hoff : phase' ≠ .off) (hdead : phase' ≠ .dead) (hne : phase' ≠ phase) :
    bus.onSymbol phase f = .error .notEnabled := by
  subst hp
  rw [Bus.onSymbol, if_neg (not_or.2 ⟨hoff, hdead⟩), if_neg hne]

section
variable {s : State} {b : BusId} {bus : Bus} (hb : s.buses[b.val]? = some bus)
include hb

theorem exec_txStart_of_ne (hp : bus.t.txPhase ≠ .start) : exec (.txStart b) s = .refused .notEnabled := by
  rw [exec_txStart]
  exact busEvent_of_error hb (Bus.txStart_of_ne _ hp)

theorem exec_txBit_of_ne (hp : bus.t.txPhase ≠ .data) : exec (.txBit b) s = .refused .notEnabled := by
  rw [exec_txBit]
  exact busEvent_of_error hb (Bus.txBit_of_ne _ hp)

theorem exec_txEnd_of_ne (hp : bus.t.txPhase ≠ .stop) : exec (.txEnd b) s = .refused .notEnabled := by
  rw [exec_txEnd]
  exact busEvent_of_error hb (if_neg hp)

theorem exec_txComplete_of_not_raised (hw : bus.t.writeBusy = true) (hp : bus.t.txPhase ≠ .idle) :
    exec (.txComplete b) s = .refused .notRaised := by
  rw [exec_txComplete]
  exact busEvent_of_error hb ((if_pos hw).trans (if_neg hp))

/-- A receiver that is off or dead drops every symbol. -/
theorem exec_rx_of_dropped (hp : bus.t.rxPhase = .off ∨ bus.t.rxPhase = .dead) :
    exec (.rxEnd b) s = .next s ∧ exec (.rxBad b) s = .next s ∧ (∀ bit, exec (.rxBit b bit) s = .next s) ∧
      ∀ symbol, exec (.rxWaitStart b symbol) s = .next s := by
  refine ⟨?_, ?_, fun bit => ?_, fun symbol => ?_⟩
  · rw [exec_rxEnd]; exact busEvent_of_same hb (Bus.onSymbol_of_dropped _ _ hp)
  · rw [exec_rxBad]; exact busEvent_of_same hb (Bus.onSymbol_of_dropped _ _ hp)
  · rw [exec_rxBit]; exact busEvent_of_same hb (Bus.onSymbol_of_dropped _ _ hp)
  · rw [exec_rxWaitStart]; exact busEvent_of_same hb (Bus.onSymbol_of_dropped _ _ hp)

/-- A receiver that waits for START has none of the other micro-steps. -/
theorem exec_rx_of_waitStart (hp : bus.t.rxPhase = .waitStart) :
    exec (.rxEnd b) s = .refused .notEnabled ∧ exec (.rxBad b) s = .refused .notEnabled ∧
      ∀ bit, exec (.rxBit b bit) s = .refused .notEnabled := by
  refine ⟨?_, ?_, fun bit => ?_⟩
  · rw [exec_rxEnd]; exact busEvent_of_error hb (Bus.onSymbol_of_other _ hp nofun nofun nofun)
  · rw [exec_rxBad]; exact busEvent_of_error hb (Bus.onSymbol_of_other _ hp nofun nofun nofun)
  · rw [exec_rxBit]; exact busEvent_of_error hb (Bus.onSymbol_of_other _ hp nofun nofun nofun)

theorem exec_rxWaitStart_of_data (hp : bus.t.rxPhase = .data) (symbol : Symbol) :
    exec (.rxWaitStart b symbol) s = .refused .notEnabled := by
  rw [exec_rxWaitStart]
  exact busEvent_of_error hb (Bus.onSymbol_of_other _ hp nofun nofun nofun)

end

end Sys2Proof.Machine

namespace Sys2Proof.Proofs
open Sys2Proof.Machine

/-- Settles O24: the tests in their order, on what VALIDATE and PARSE answer for the same bytes. -/
theorem rxCompletePublishesOrDiscards : Obligations.RxCompletePublishesOrDiscards := by
  intro s b bus count hb
  refine ⟨rfl, exec_rxComplete_of_not_readBusy hb, fun hr hp hcount hspoiled => ?_,
    fun hr hp hcount hbad hover h5 hmod hbuf bytes hlen hcells => ?_⟩
  · refine exec_rxComplete_of_spoiled hb hr hp hcount (hspoiled.imp_right (Or.imp_right fun hsize => ?_))
    rw [Bool.eq_false_iff, ne_eq, frameSizeOk_iff]
    omega
  · have hsize := (frameSizeOk_iff count).2 ⟨h5, hmod⟩
    have hread : readCells bus.t.rb 0 count = .ok bytes :=
      (readCells_ok_iff _ _ _ _).2 ⟨hlen, fun i hi => by rw [Nat.zero_add]; exact hcells i hi⟩
    refine ⟨_, _, exec_validate_of_le s hbuf hlen.ge, exec_parse_of_le s hbuf hlen.ge, fun hinvalid => ?_,
      fun hvalid hnone => ?_, fun f hvalid hframe => ?_⟩
    · exact exec_rxComplete_of_bytes hb hr hp hcount hbad hover hsize hbuf hread (Bus.judge_of_invalid hinvalid)
    · exact exec_rxComplete_of_bytes hb hr hp hcount hbad hover hsize hbuf hread (Bus.judge_of_malformed hvalid hnone)
    · exact ⟨_, bus.t.readCell_publish (length_words_of_parseFrame hlen.ge hframe),
        exec_rxComplete_of_bytes hb hr hp hcount hbad hover hsize hbuf hread (Bus.judge_of_frame hvalid hframe)⟩

/-- Settles O30: the three ways of a bit of its own line phase. -/
theorem rxBitAssemblesBytes : Obligations.RxBitAssemblesBytes := by
  intro s b bus v clock hb hclock
  rw [← shiftConcat_eq]
  refine ⟨rfl, fun hp hinside => ?_, fun hp hlast hroom => ?_, fun hp hlast hfull => ?_⟩
  · exact exec_rxBit_of_clock hb hp hclock (Transport.shiftIn_inside v hinside)
  · exact ⟨_, fun a => readCell_writeCell bus.t.rb bus.t.rbCount a _,
      exec_rxBit_of_clock hb hp hclock (Transport.shiftIn_last_stores v hlast hroom)⟩
  · exact exec_rxBit_of_clock hb hp hclock (Transport.shiftIn_last_overflows v hlast hfull)

/-- Settles O31: seven bits are held, and the eighth completes the byte whatever the shift register held before. -/
theorem eightBitsStoreTheByte : Obligations.EightBitsStoreTheByte := by
  intro s b bus x hb hp hcnt hroom
  have hstart : bus.midByte bus.t.rxShift 0 = bus := by rw [Bus.midByte, ← hcnt]
  have hseven := execAll_rxBits_midByte hb hp ([7, 6, 5, 4, 3, 2, 1].map x.getLsbD) bus.t.rxShift 0 7 rfl
  have hlast := exec_rxBit_midByte_last hb hp x _ (x.getLsbD 0) (shiftConcat_eight x bus.t.rxShift) hroom
  rw [hstart, set_bus_self hb] at hseven
  refine ⟨_, fun a => readCell_writeCell bus.t.rb bus.t.rbCount a x, ?_⟩
  rw [rxBits_of_byte]
  refine (execAll_append_of_next hseven).trans ((execAll_cons_of_next hlast).trans ?_)
  rw [execAll_nil, ← hcnt]

/-- Settles O33. -/
theorem rxBadKillsTheReception : Obligations.RxBadKillsTheReception := by
  intro s b bus hb
  refine ⟨rfl, exec_rxBad_of_data hb, fun hp v clock => exec_rxBit_of_ne_clock hb hp, fun hp bit symbol => ?_⟩
  obtain ⟨hend, hbad, hbit, hwait⟩ := exec_rx_of_dropped hb (.inr hp)
  exact ⟨hbit bit, hend, hwait symbol, hbad⟩

/-- Settles O34: each outcome is that of the enabling test. -/
theorem stepsThatAreNotEnabled : Obligations.StepsThatAreNotEnabled := by
  intro s b bus hb
  exact ⟨exec_txStart_of_ne hb, exec_txBit_of_ne hb, exec_txEnd_of_ne hb, exec_rx_of_dropped hb,
    exec_rx_of_waitStart hb, exec_rxWaitStart_of_data hb, exec_txComplete_of_not_raised hb,
    fun hr _ => exec_rxComplete_of_not_raised hb hr⟩

/-- Settles O36: PROCESSEVENTS puts the stopped engine in its phase at rest, where nothing of it is enabled. -/
theorem stoppedEngineRaisesNothing : Obligations.StoppedEngineRaisesNothing := by
  intro s b bus currentTime hb hd
  refine ⟨fun hw => ?_, fun hw hr => ?_⟩
  · have hstopped := getElem?_set_bus_same (bus' := { bus.raise .writeTimeout with t := bus.t.abortWrite }) hb
    exact ⟨_, exec_processEvents_of_eq hb (Bus.processEvents_of_write_expired hw hd),
      exec_txStart_of_ne hstopped nofun, exec_txBit_of_ne hstopped nofun, exec_txEnd_of_ne hstopped nofun⟩
  · have hstopped := getElem?_set_bus_same (bus' := { bus.raise .readTimeout with t := bus.t.abortRead }) hb
    exact ⟨_, exec_processEvents_of_eq hb (Bus.processEvents_of_read_expired hw hr hd),
      exec_rx_of_dropped hstopped (.inl rfl)⟩

end Sys2Proof.Proofs
end

section
/-! Presence, NODE.TASK and the disconnect threshold (spec/45_peripheral_node.md, spec/46_controller_poller.md section 2): settles
O38, O42, O43 and O47. NODE.TASK of a main node is first taken apart into the frame it consumes and the work it does then. -/

namespace Sys2Proof.Machine

/-! ## NODE.SETCONNECTED (R240) -/

theorem exec_nodeSetConnected_of_bus {s : State} {b : BusId} {bus : Bus} (hb : s.buses[b.val]? = some bus) (id : NodeId)
    (st : Bool) :
    exec (.nodeSetConnected b id st) s =
      .next { s with buses := s.buses.set b.val (bus.setConnected id st), ret := .none } := by
  rw [exec_nodeSetConnected]
  exact busOperation_of_ok hb rfl

/-- The nodes after NODE.SETCONNECTED(false): the node itself and, under a main node, every sub-node are disconnected. -/
theorem Bus.node_setConnected_false (bus : Bus) (id other : NodeId) :
    (bus.setConnected id false).node other =
      if other = id ∨ id = .main then (bus.node other).setConnected false else bus.node other := by
  rw [Bus.node_setConnected]
  simp only [and_true]

/-! ## The frame NODE.TASK consumes (R236, part 1) -/

section
variable {c : Ctx} {bus : Bus} {words : List Word} (hread : readCells bus.t.lv 0 bus.t.lvLen = .ok words)
include hread

theorem Bus.consumeFrame_of_no_frame (hnew : bus.t.lvNew = false) : bus.consumeFrame c = .ok bus := by
  have hcleared : ({ bus with t := { bus.t with lvNew := false } } : Bus) = bus := by rw [← hnew]
  simp [Bus.consumeFrame, Bus.getReadData, hread, hnew, hcleared]

theorem Bus.consumeFrame_of_frame {bus' : Bus} {handled : Bool} (hnew : bus.t.lvNew = true) (hlen : bus.t.lvLen ≠ 0)
    (hdispatch : ({ bus with t := { bus.t with lvNew := false } } : Bus).dispatch c words = .ok (bus', handled)) :
    bus.consumeFrame c = .ok bus' := by
  simp [Bus.consumeFrame, Bus.getReadData, hread, hnew, hlen, hdispatch]

end

/-- A dispatched frame leaves the snapshot readable and its flag clear, so nothing is left to consume. -/
theorem Bus.consumeFrame_of_dispatched {c : Ctx} {bus bus' : Bus} {words : List Word} {handled : Bool}
    (hread : readCells bus.t.lv 0 bus.t.lvLen = .ok words)
    (hdispatch : ({ bus with t := { bus.t with lvNew := false } } : Bus).dispatch c words = .ok (bus', handled)) :
    bus'.consumeFrame c = .ok bus' := by
  have ht : bus'.t = { bus.t with lvNew := false } := Bus.dispatch_t hdispatch
  exact Bus.consumeFrame_of_no_frame (words := words) (by rw [ht]; exact hread) (by rw [ht])

/-! ## The work NODE.TASK does then (R236, parts 2 and 3) -/

/-- A main node's own work and, while it is present, its sub-nodes' tasks. -/
def Bus.mainWork (c : Ctx) (currentTime : Nat) (bus : Bus) : Bus :=
  if (bus.ownWork c currentTime .main).main.present then (bus.ownWork c currentTime .main).fanOut c currentTime
  else bus.ownWork c currentTime .main

theorem Bus.task_main_of_consumed {c : Ctx} {bus bus' : Bus} (h : bus.consumeFrame c = .ok bus') (currentTime : Nat) :
    bus.task c currentTime .main = .ok (bus'.mainWork c currentTime) := by
  simp only [Bus.task, h]
  rfl

/-- A completed GETREADDATA has read the snapshot and cleared its flag. -/
theorem exec_getReadData_next {s t : State} {b : BusId} (h : exec (.getReadData b) s = .next t) :
    ∃ bus words, s.buses[b.val]? = some bus ∧ readCells bus.t.lv 0 bus.t.lvLen = .ok words ∧
      t = { s with
        buses := s.buses.set b.val { bus with t := { bus.t with lvNew := false } }
        ret := .readData words bus.t.lvLen bus.t.lvNew } := by
  obtain ⟨bus, _, _, hb, hok, rfl⟩ := busOperation_next_iff.1 ((exec_getReadData b s).symm.trans h)
  cases hread : bus.getReadData with
  | error e => rw [hread] at hok; cases hok
  | ok r =>
    obtain ⟨cleared, words, length, isNew⟩ := r
    obtain ⟨hwords, rfl, rfl, rfl⟩ := Bus.getReadData_ok hread
    rw [hread] at hok
    cases hok
    exact ⟨bus, words, hb, hwords, rfl⟩

/-- A completed MAIN.DISPATCH had a frame and has dispatched it. -/
theorem exec_mainDispatch_next {s t : State} {b : BusId} {words : List Word} {length : Nat}
    (h : exec (.mainDispatch b words length) s = .next t) :
    ∃ bus bus' handled, s.buses[b.val]? = some bus ∧ length ≠ 0 ∧
      bus.dispatch (ctxOf s b) words = .ok (bus', handled) ∧
      t = { s with buses := s.buses.set b.val bus', ret := .bool handled } := by
  obtain ⟨bus, bus', _, hb, hok, rfl⟩ := busOperation_next_iff.1 ((exec_mainDispatch b words length s).symm.trans h)
  split_ifs at hok with hlen
  cases hdispatch : bus.dispatch (ctxOf s b) words with
  | error e => rw [hdispatch] at hok; cases hok
  | ok r =>
    obtain ⟨bus'', handled⟩ := r
    rw [hdispatch] at hok
    cases hok
    exact ⟨bus, bus', handled, hb, hlen, hdispatch, rfl⟩

section
variable {s : State} {b : BusId} {bus : Bus} (hb : s.buses[b.val]? = some bus)
include hb

theorem exec_nodeTask_of_task {id : NodeId} {currentTime : Nat} {bus' : Bus}
    (h : bus.task (ctxOf s b) currentTime id = .ok bus') :
    exec (.nodeTask b id currentTime) s = .next { s with buses := s.buses.set b.val bus', ret := .none } := by
  rw [exec_nodeTask]
  exact busOperation_of_ok hb (by rw [h])

theorem exec_nodeTask_sub (i : Fin 5) (currentTime : Nat) :
    exec (.nodeTask b (.sub i) currentTime) s =
      .next { s with buses := s.buses.set b.val (bus.ownWork (ctxOf s b) currentTime (.sub i)), ret := .none } :=
  exec_nodeTask_of_task hb rfl

/-- The tasks of some sub-nodes, one after another, are their own work in that order. -/
theorem execAll_nodeTask_sub (is : List (Fin 5)) (currentTime : Nat) :
    ∀ bus' : Bus,
      execAll (is.map fun i => .nodeTask b (.sub i) currentTime)
          { s with buses := s.buses.set b.val bus', ret := .none } =
        .next { s with
          buses := s.buses.set b.val (is.foldl (fun d i => d.ownWork (ctxOf s b) currentTime (.sub i)) bus')
          ret := .none } := by
  induction is with
  | nil => intro bus'; rfl
  | cons i is ih =>
    intro bus'
    have hfirst := exec_nodeTask_sub (s := { s with buses := s.buses.set b.val bus', ret := .none })
      (getElem?_set_bus_same hb) i currentTime
    rw [List.set_set] at hfirst
    exact (execAll_cons_of_next hfirst).trans (ih _)

end

/-! ## A node's own work (R236, part 2) -/

section
variable {c : Ctx} {bus : Bus} {id : NodeId} {currentTime : Nat}

theorem Bus.ownWork_of_early (habsent : (bus.node id).present = false)
    (hearly : currentTime < (bus.node id).nextProbe) : bus.ownWork c currentTime id = bus := by
  simp [Bus.ownWork, habsent, expired_iff, Nat.not_le.2 hearly]

theorem Bus.ownWork_of_due (habsent : (bus.node id).present = false)
    (hdue : (bus.node id).nextProbe ≤ currentTime) : bus.ownWork c currentTime id = bus.probe c currentTime id := by
  simp [Bus.ownWork, habsent, expired_iff, hdue]

theorem Bus.ownWork_of_no_poller (hpresent : (bus.node id).present = true)
    (hfree : (bus.node id).poller.attached = false) : bus.ownWork c currentTime id = bus := by
  simp [Bus.ownWork, hpresent, hfree]

theorem Bus.ownWork_of_poller (hpresent : (bus.node id).present = true)
    (hattached : (bus.node id).poller.attached = true) :
    bus.ownWork c currentTime id =
      if (bus.tick c currentTime id).2 then (bus.tick c currentTime id).1
      else ((bus.tick c currentTime id).1.updNode id Node.detach).setConnected id false := by
  simp [Bus.ownWork, hpresent, hattached]

end

/-! ## The misses a tick counts (R262) -/

/-- A poll counts no miss, refused or not. -/
theorem Bus.noData_poll (c : Ctx) (currentTime : Nat) (bus : Bus) (id : NodeId) :
    ((bus.poll c currentTime id).node id).poller.noData = (bus.node id).poller.noData := by
  unfold Bus.poll
  dsimp only
  split
  · rw [Bus.node_updPoller, Bus.write_node]
  · rw [Bus.write_node]

/-- A tick reports a disconnection exactly when it is due, waits and has counted two misses. -/
def Poller.givesUp (q : Poller) (currentTime : Nat) : Prop :=
  q.newData = false ∧ q.nextCheck ≤ currentTime ∧ q.waiting = true ∧ q.noData = 2

/-- The misses counted after a tick. -/
def Poller.missesAfter (q : Poller) (currentTime : Nat) : Nat :=
  if q.newData then 0
  else if q.nextCheck ≤ currentTime ∧ q.waiting = true then (if q.noData = 2 then 0 else q.noData + 1)
  else q.noData

section
variable (c : Ctx) {bus : Bus} {id : NodeId} (currentTime : Nat)

/-- With no new data the answer and the count are by the branches of transition 2. -/
theorem Bus.tick_counts_of_no_data (hdata : (bus.node id).poller.newData = false) :
    ((bus.tick c currentTime id).2 = false ↔ (bus.node id).poller.givesUp currentTime) ∧
      ((bus.tick c currentTime id).1.node id).poller.noData = (bus.node id).poller.missesAfter currentTime := by
  unfold Poller.givesUp Poller.missesAfter
  by_cases hdue : (bus.node id).poller.nextCheck ≤ currentTime
  · cases hwait : (bus.node id).poller.waiting with
    | false =>
      rw [Bus.tick_of_not_waiting hdata hdue hwait]
      simp [hdata, Bus.noData_poll]
    | true =>
      by_cases hcount : (bus.node id).poller.noData = 2
      · rw [Bus.tick_of_threshold hdata hdue hwait (congrArg (· + 1) hcount), Bus.node_setNode_same]
        simp [hdata, hdue, hcount]
      · have hbelow : (bus.node id).poller.noData + 1 ≠ disconnectThreshold := fun h => hcount (Nat.succ.inj h)
        have hcounted : ((bus.missCounted id).node id).poller.noData = (bus.node id).poller.noData + 1 := by
          rw [Bus.missCounted, Bus.node_setNode_same]
        rw [Bus.tick_of_below_threshold hdata hdue hwait hbelow]
        dsimp only
        split <;> simp [hdata, hdue, hcount, hcounted, Bus.noData_poll]
  · rw [Bus.tick_of_early hdata (Nat.not_le.1 hdue)]
    simp [hdata, hdue]

/-- New data starts the count anew and ends the wait. -/
theorem Bus.poller_transition1_of_data (hdata : (bus.node id).poller.newData = true) :
    ((bus.transition1 c id).node id).poller.waiting = false ∧
      ((bus.transition1 c id).node id).poller.noData = 0 := by
  by_cases hshape : (bus.node id).poller.expectedShape c.cfg = true
  · rw [Bus.transition1_of_response hdata hshape rfl, Bus.node_setNode_same]; exact ⟨rfl, rfl⟩
  · rw [Bus.transition1_of_unexpected hdata hshape, Bus.node_setNode_same]; exact ⟨rfl, rfl⟩

theorem Bus.tick_counts (bus : Bus) (id : NodeId) :
    ((bus.tick c currentTime id).2 = false ↔ (bus.node id).poller.givesUp currentTime) ∧
      ((bus.tick c currentTime id).1.node id).poller.noData = (bus.node id).poller.missesAfter currentTime := by
  cases hdata : (bus.node id).poller.newData with
  | false => exact Bus.tick_counts_of_no_data c currentTime hdata
  | true =>
    obtain ⟨hwait, hcount⟩ := Bus.poller_transition1_of_data c hdata
    have hlater := Bus.tick_counts_of_no_data c currentTime (bus.poller_transition1 c id).1
    rw [← Bus.tick_eq_tick_transition1] at hlater
    simpa [Poller.givesUp, Poller.missesAfter, hdata, hwait, hcount] using hlater

end

end Sys2Proof.Machine

namespace Sys2Proof.Proofs
open Sys2Proof.Machine

/-- Settles O38: a disconnected node takes its poller with it, and a main node its sub-nodes. -/
theorem setConnectedSetsPresence : Obligations.SetConnectedSetsPresence := by
  intro s b bus id hb
  refine ⟨fun _ => rfl, ?_, _, exec_nodeSetConnected_of_bus hb id false, Bus.setConnected_t .., Bus.setConnected_wireTx ..,
    Bus.setConnected_raised .., Bus.setConnected_env .., Bus.setConnected_windowEnd .., fun other => ?_⟩
  · rw [exec_nodeSetConnected_of_bus hb, Bus.setConnected_true]
  · rw [Bus.node_setConnected_false, Node.setConnected_false]

/-- Settles O42: the dispatched bus is the one the main node's work starts from, with a frame to consume and without. -/
theorem taskDispatchesANewFrame : Obligations.TaskDispatchesANewFrame := by
  intro s u v b words length currentTime hget hret hmain
  obtain ⟨bus, words', hb, hread, rfl⟩ := exec_getReadData_next hget
  obtain ⟨rfl, rfl, hnew⟩ : words' = words ∧ bus.t.lvLen = length ∧ bus.t.lvNew = true := by simpa using hret
  obtain ⟨cleared, bus', handled, hcleared, hlen, hdispatch, rfl⟩ := exec_mainDispatch_next hmain
  rw [getElem?_set_bus_same hb] at hcleared
  cases hcleared
  have hconsume := Bus.consumeFrame_of_frame hread hnew hlen hdispatch
  have hagain := Bus.consumeFrame_of_dispatched hread hdispatch
  have hv := exec_nodeTask_of_task (s := { s with buses := s.buses.set b.val bus', ret := .bool handled })
    (getElem?_set_bus_same hb) (Bus.task_main_of_consumed hagain currentTime)
  rw [List.set_set] at hv ⊢
  exact (exec_nodeTask_of_task hb (Bus.task_main_of_consumed hconsume currentTime)).trans hv.symm

/-- Settles O43: the own work of the node is the state between, and each clause is one of its branches. -/
theorem taskProbesTicksAndFansOut : Obligations.TaskProbesTicksAndFansOut := by
  intro s b bus id currentTime hb hidle
  have htask : id = .main → bus.task (ctxOf s b) currentTime .main = .ok (bus.mainWork (ctxOf s b) currentTime) := by
    intro hid
    obtain ⟨hnew, hwritten⟩ := hidle hid
    obtain ⟨words, hread⟩ := hwritten.of_readCells
    exact Bus.task_main_of_consumed (Bus.consumeFrame_of_no_frame hread hnew) currentTime
  refine ⟨rfl, { s with buses := s.buses.set b.val (bus.ownWork (ctxOf s b) currentTime id), ret := .none }, _, rfl,
    getElem?_set_bus_same hb, fun habsent hearly => ?_, fun habsent hdue => ?_, fun hpresent hfree => ?_,
    fun hpresent hattached => ?_, fun hdone => ?_, fun hid hpresent => ?_⟩
  · rw [Bus.ownWork_of_early habsent hearly, set_bus_self hb]
  · refine ⟨_, _, _, exec_write_of_le hb s.cfg.cmdDeviceInfoRequest (bus.node id).addr (payload := []) (len := 0)
      le_rfl true s.cfg.probeReadTimeoutUs, rfl, getElem?_set_bus_same hb, ?_⟩
    rw [Bus.ownWork_of_due habsent hdue, List.set_set]
    rfl
  · rw [Bus.ownWork_of_no_poller hpresent hfree, set_bus_self hb]
  · refine ⟨_, _, exec_pollerTick_of_tick hb hattached Prod.mk.eta.symm, rfl, fun hconnected => ?_, fun hlost => ?_⟩
    · rw [Bus.ownWork_of_poller hpresent hattached, if_pos hconnected]
    · rw [Bus.ownWork_of_poller hpresent hattached, if_neg (Bool.eq_false_iff.1 hlost)]
      refine (execAll_cons_of_next (exec_pollerDetach_of_bus (getElem?_set_bus_same hb) id)).trans ?_
      refine (execAll_cons_of_next (exec_nodeSetConnected_of_bus
        (getElem?_set_bus_same (getElem?_set_bus_same hb)) id false)).trans ?_
      rw [execAll_nil, List.set_set, List.set_set]
      rfl
  · cases id with
    | sub i => exact exec_nodeTask_sub hb i currentTime
    | main =>
      have habsent := hdone.resolve_left (· rfl)
      rw [exec_nodeTask_of_task hb (htask rfl), Bus.mainWork, if_neg (Bool.eq_false_iff.1 habsent)]
  · subst hid
    have hexec := exec_nodeTask_of_task hb (htask rfl)
    refine ⟨?_, _, hexec⟩
    rw [hexec, Bus.mainWork, if_pos hpresent]
    exact (execAll_nodeTask_sub hb [0, 1, 2, 3, 4] currentTime _).symm

/-- Settles O47. -/
theorem disconnectOnTheThirdConsecutiveMiss : Obligations.DisconnectOnTheThirdConsecutiveMiss := by
  rintro s b bus id currentTime _ hb rfl hattached
  obtain ⟨hgivesUp, hmisses⟩ := Bus.tick_counts (ctxOf s b) currentTime bus id
  exact ⟨_, _, _, exec_pollerTick_of_tick hb hattached Prod.mk.eta.symm, rfl, getElem?_set_bus_same hb, hgivesUp, hmisses⟩

end Sys2Proof.Proofs
end
